-- ==== Sys2Proof/Word.lean ====
section
/-! DEFINITION. The widths of the block's values (spec 00_scope.md R9): every value is unsigned. -/

namespace Sys2Proof

/-- A command word, a data-port word, a CSR or a time in milliseconds (R13, R34, R48, R100). -/
abbrev Word := BitVec 32

/-- One byte of a report payload (R126 to R129) or a LED coordinate (R53). -/
abbrev Byte := BitVec 8

/-- A KeyCode: one u16 keymap entry (R118). -/
abbrev KeyCode := BitVec 16

/-- A Consumer-Page usage ID (R126, R180). -/
abbrev Usage := BitVec 16

/-- A raw or debounced sample: three bytes, byte `i` at bits `8i+7..8i` (R49, R123). -/
abbrev Sample := BitVec 24

/-- One bit per key, bit `k` for key `k` in 0..16 (R124, R150). -/
abbrev KeyMask := BitVec 17

end Sys2Proof
end

