-- ==== Sys2Proof/Syntax.lean ====
section
/-! DEFINITION. The nineteen commands of the command interface (spec 30_encoding.md R111, opcode_table.json), one
constructor each. A constructor holds the operand fields of its format at the width the word gives them, so every
encodable operand is a term, the out-of-range ones too: those the command itself turns away (R109, R301). -/

namespace Sys2Proof

/-- A command. Operands that come from the data ports (DIN0, DIN1) or from the environment (NOW, captures) are no
part of the word (R48, R116). -/
inductive Instr where
  /-- OPC 0x01, format FN (R144). -/
  | filter
  /-- OPC 0x02, format FN (R154). -/
  | diff
  /-- OPC 0x03, format FLK (R171). -/
  | resolve (layer : BitVec 3) (key : BitVec 5)
  /-- OPC 0x04, format FC (R173). -/
  | iscombo (code : KeyCode)
  /-- OPC 0x05, format FC (R174). -/
  | base (code : KeyCode)
  /-- OPC 0x06, format FC (R175). -/
  | modmask (code : KeyCode)
  /-- OPC 0x07, format FBM (R176). -/
  | mkcombo (mods : BitVec 4) (base : BitVec 8)
  /-- OPC 0x08, format FC (R179). -/
  | classify (code : KeyCode)
  /-- OPC 0x09, format FC (R181). -/
  | cxlate (code : KeyCode)
  /-- OPC 0x0A, format FL (R210). -/
  | assemble (layer : BitVec 3)
  /-- OPC 0x0B, format FN (R233). -/
  | dispatch
  /-- OPC 0x0C, format FN (R270). -/
  | scan
  /-- OPC 0x0D, format FLKC (R172). -/
  | kmwrite (layer : BitVec 3) (key : BitVec 5) (code : KeyCode)
  /-- OPC 0x0E, format FL (R246). -/
  | setlayer (layer : BitVec 3)
  /-- OPC 0x0F, format FB (R238). -/
  | seten (b : Bool)
  /-- OPC 0x10, format FB (R231). -/
  | suspend (b : Bool)
  /-- OPC 0x11, format FN (R232). -/
  | resume
  /-- OPC 0x12, format FN (R243). -/
  | txdone
  /-- OPC 0x13, format FR (R247). -/
  | rdreg (reg : BitVec 8)
  deriving DecidableEq, Repr

end Sys2Proof
end

