-- ==== Sys2Proof/WellFormed.lean ====
section
/-! DEFINITION. The legal ranges of the operand fields (spec 30_encoding.md R109). A command outside them is still
a command: it raises RANGE or READONLY and changes nothing else (60_exceptions.md R301). -/

namespace Sys2Proof

/-- LAYER in 0..6 (R109). -/
def legalLayer (layer : BitVec 3) : Bool := decide (layer.toNat ≤ 6)

/-- KMWRITE's LAYER in 1..6 (R109). -/
def writableLayer (layer : BitVec 3) : Bool := decide (1 ≤ layer.toNat ∧ layer.toNat ≤ 6)

/-- KEY in 0..16 (R109). -/
def legalKey (key : BitVec 5) : Bool := decide (key.toNat ≤ 16)

/-- REG one of the assigned CSR numbers 0x00..0x0A (R109). -/
def assignedReg (reg : BitVec 8) : Bool := decide (reg.toNat ≤ 0x0A)

/-- Every operand field of the command lies in its legal range. -/
def Instr.wellFormed : Instr → Bool
  | .filter => true
  | .diff => true
  | .resolve layer key => legalLayer layer && legalKey key
  | .iscombo _ => true
  | .base _ => true
  | .modmask _ => true
  | .mkcombo _ _ => true
  | .classify _ => true
  | .cxlate _ => true
  | .assemble layer => legalLayer layer
  | .dispatch => true
  | .scan => true
  | .kmwrite layer key _ => writableLayer layer && legalKey key
  | .setlayer layer => legalLayer layer
  | .seten _ => true
  | .suspend _ => true
  | .resume => true
  | .txdone => true
  | .rdreg reg => assignedReg reg

end Sys2Proof
end

