-- ==== Sys2Proof/Decode.lean ====
section
/-! DEFINITION. Decoding and encoding the command word (spec 30_encoding.md R100 to R115). -/

namespace Sys2Proof

/-- Why a word is no command (R112, R113). -/
inductive DecodeError where
  /-- OPC is 0x00 or in 0x14..0xFF (R112). -/
  | illegalOpcode
  /-- A bit that the format marks "must be 0" is 1 (R113). -/
  | reserved
  deriving DecidableEq, Repr

/-- `OPC = CMD[31:24]` (R100). -/
def opcField (w : Word) : BitVec 8 := w.extractLsb' 24 8
/-- `LAYER = CMD[23:21]` (R102, R103, R104). -/
def layerField (w : Word) : BitVec 3 := w.extractLsb' 21 3
/-- `KEY = CMD[20:16]` (R102, R103). -/
def keyField (w : Word) : BitVec 5 := w.extractLsb' 16 5
/-- `CODE = CMD[15:0]` (R103, R105). -/
def codeField (w : Word) : KeyCode := w.extractLsb' 0 16
/-- `MODS = CMD[11:8]` (R106). -/
def modsField (w : Word) : BitVec 4 := w.extractLsb' 8 4
/-- `BASE = CMD[7:0]` (R106). -/
def baseField (w : Word) : BitVec 8 := w.extractLsb' 0 8
/-- `B = CMD[0]` (R107). -/
def bField (w : Word) : Bool := w.getLsbD 0
/-- `REG = CMD[7:0]` (R108). -/
def regField (w : Word) : BitVec 8 := w.extractLsb' 0 8

/-- The eight formats of a command word (R101 to R108). -/
inductive Format where
  | fn | flk | flkc | fl | fc | fbm | fb | fr
  deriving DecidableEq, Repr

/-- The bits of `CMD[23:0]` that the format marks "must be 0" are 0 (R101 to R108). -/
def Format.reservedIsZero (f : Format) (w : Word) : Bool :=
  match f with
  | .fn => w.extractLsb' 0 24 == 0
  | .flk => w.extractLsb' 0 16 == 0
  | .flkc => true
  | .fl => w.extractLsb' 0 21 == 0
  | .fc => w.extractLsb' 16 8 == 0
  | .fbm => w.extractLsb' 12 12 == 0
  | .fb => w.extractLsb' 1 23 == 0
  | .fr => w.extractLsb' 8 16 == 0

/-- The opcode map (R111): the command of an opcode with the fields of a word; none for 0x00 and 0x14..0xFF (R112). -/
def commandOf (opc : Nat) (w : Word) : Option Instr :=
  match opc with
  | 0x01 => some .filter
  | 0x02 => some .diff
  | 0x03 => some (.resolve (layerField w) (keyField w))
  | 0x04 => some (.iscombo (codeField w))
  | 0x05 => some (.base (codeField w))
  | 0x06 => some (.modmask (codeField w))
  | 0x07 => some (.mkcombo (modsField w) (baseField w))
  | 0x08 => some (.classify (codeField w))
  | 0x09 => some (.cxlate (codeField w))
  | 0x0A => some (.assemble (layerField w))
  | 0x0B => some .dispatch
  | 0x0C => some .scan
  | 0x0D => some (.kmwrite (layerField w) (keyField w) (codeField w))
  | 0x0E => some (.setlayer (layerField w))
  | 0x0F => some (.seten (bField w))
  | 0x10 => some (.suspend (bField w))
  | 0x11 => some .resume
  | 0x12 => some .txdone
  | 0x13 => some (.rdreg (regField w))
  | _ => none

/-- The format of a command (R111). -/
def Instr.format : Instr → Format
  | .filter => .fn
  | .diff => .fn
  | .resolve _ _ => .flk
  | .iscombo _ => .fc
  | .base _ => .fc
  | .modmask _ => .fc
  | .mkcombo _ _ => .fbm
  | .classify _ => .fc
  | .cxlate _ => .fc
  | .assemble _ => .fl
  | .dispatch => .fn
  | .scan => .fn
  | .kmwrite _ _ _ => .flkc
  | .setlayer _ => .fl
  | .seten _ => .fb
  | .suspend _ => .fb
  | .resume => .fn
  | .txdone => .fn
  | .rdreg _ => .fr

/-- Decoding, total on 32-bit words. The opcode is checked before the reserved bits (R112, R113, R114, R302); the
operand ranges are the command's own check, which comes after both. -/
def decode (w : Word) : Except DecodeError Instr :=
  match commandOf (opcField w).toNat w with
  | none => .error .illegalOpcode
  | some i => if i.format.reservedIsZero w then .ok i else .error .reserved

/-- The opcode of a command (R111). -/
def Instr.opcode : Instr → Nat
  | .filter => 0x01
  | .diff => 0x02
  | .resolve _ _ => 0x03
  | .iscombo _ => 0x04
  | .base _ => 0x05
  | .modmask _ => 0x06
  | .mkcombo _ _ => 0x07
  | .classify _ => 0x08
  | .cxlate _ => 0x09
  | .assemble _ => 0x0A
  | .dispatch => 0x0B
  | .scan => 0x0C
  | .kmwrite _ _ _ => 0x0D
  | .setlayer _ => 0x0E
  | .seten _ => 0x0F
  | .suspend _ => 0x10
  | .resume => 0x11
  | .txdone => 0x12
  | .rdreg _ => 0x13

/-- The operand fields of a command, each at its place in `CMD[23:0]`, the must-be-0 bits 0 (R101 to R108). -/
def Instr.fields : Instr → Nat
  | .filter => 0
  | .diff => 0
  | .resolve layer key => layer.toNat * 2 ^ 21 + key.toNat * 2 ^ 16
  | .iscombo code => code.toNat
  | .base code => code.toNat
  | .modmask code => code.toNat
  | .mkcombo mods b => mods.toNat * 2 ^ 8 + b.toNat
  | .classify code => code.toNat
  | .cxlate code => code.toNat
  | .assemble layer => layer.toNat * 2 ^ 21
  | .dispatch => 0
  | .scan => 0
  | .kmwrite layer key code => layer.toNat * 2 ^ 21 + key.toNat * 2 ^ 16 + code.toNat
  | .setlayer layer => layer.toNat * 2 ^ 21
  | .seten b => b.toNat
  | .suspend b => b.toNat
  | .resume => 0
  | .txdone => 0
  | .rdreg reg => reg.toNat

/-- The word of a command: OPC in bits 31:24, the operand fields below (R100). -/
def encode (i : Instr) : Word := BitVec.ofNat 32 (i.opcode * 2 ^ 24 + i.fields)

/-- The word as the opcode table numbers it: every command is one 32-bit word (R100), and bits at or above `nbits`
are 0. -/
def tableWord (nbits w : Nat) : Word := BitVec.ofNat 32 (w % 2 ^ nbits)

/-- The instruction the decoder reads from a word of the opcode table; none where it refuses. -/
def decodeTableWord (nbits w : Nat) : Option Instr :=
  match decode (tableWord nbits w) with
  | .ok i => some i
  | .error _ => none

end Sys2Proof
end

