-- ==== Sys2Proof/Config.lean ====
section
/-! DEFINITION. The implementation parameters (spec 00_scope.md R6). `Config` holds those that a model may
override or must take as an argument; it is a field of State that nothing writes (R30, log 4), so a statement
about every state is a statement about every configuration. The parameters with a source value are constants. -/

namespace Sys2Proof

/-- `N_BYTES` (R6). -/
def nBytes : Nat := 3
/-- `NUM_KEYS` (R6). -/
abbrev numKeys : Nat := 17
/-- `TOTAL_LAYERS` (R6): layers 0..6. -/
abbrev totalLayers : Nat := 7
/-- `SAMPLE_BITS` = `N_BYTES` x 8 (R6). -/
abbrev sampleBits : Nat := 24
/-- `BOOT_SLOTS` (R6). -/
abbrev bootSlots : Nat := 6
/-- `BITMAP_BYTES` (R6). -/
abbrev bitmapBytes : Nat := 15
/-- `QUEUE_CAP` (R6). -/
abbrev queueCap : Nat := 10

/-- `SETTLE_US` (R6): a timing duty, read by no step (R147, R345; log 16). -/
def settleUs : Nat := 10
/-- `PLOAD_LOW_US` (R6): a timing duty, read by no step (R346; log 16). -/
def ploadLowUs : Nat := 10
/-- `SCAN_PERIOD_MS` (R6): a duty of the scan task, read by no step (R277; log 16). -/
def scanPeriodMs : Nat := 5
/-- `POST_WAKE_MS` (R6): a duty of the scan task, read by no step (R347; log 16). -/
def postWakeMs : Nat := 10

/-- A fixed LED position: row and column (R53, R151). -/
abbrev LedPosition := Byte × Byte

/-- The parameters a model takes as arguments (R6, R120). -/
structure Config where
  /-- `KC_NO` (D9). -/
  kcNo : KeyCode
  /-- `KC_LEFT_CTRL`, the low end of the modifier range (D9). -/
  kcLeftCtrl : KeyCode
  /-- `KC_RIGHT_GUI`, the high end of the modifier range (D9). -/
  kcRightGui : KeyCode
  /-- `CONSUMER_SRC[0..17]`, in the order of the table of R180 (D9). -/
  consumerSrc : Vector KeyCode 18
  /-- `RID_KEYBOARD` (D16). -/
  ridKeyboard : Byte
  /-- `RID_FULL_KEY` (D16). -/
  ridFullKey : Byte
  /-- `RID_CONSUMER` (D16). -/
  ridConsumer : Byte
  /-- `KEY_BIT_MAP`: the sample bit of each key (R78, D5). -/
  keyBitMap : Vector (Fin sampleBits) numKeys
  /-- `LED_MAP`: the LED position of each key, if it has one (R151, D8): OPEN. -/
  ledMap : Vector (Option LedPosition) numKeys
  /-- `KEYMAP0`: layer 0 (R341, D24): OPEN. -/
  keymap0 : Vector KeyCode numKeys
  /-- `KEYMAP_INIT`: layers 1..6 at reset as one flat list, layer-major (R76, R341, D24): OPEN. -/
  keymapInit : Vector KeyCode 102
  deriving DecidableEq, Repr

end Sys2Proof
end

