-- ==== Sys2Proof/Machine/Params.lean ====
section
/-! DEFINITION. The reference values of the parameters (spec 00_scope.md R6), the invariants a configuration must
satisfy (R7), and the time constants that enter the semantics (70_reset_and_hazards.md R353). -/

namespace Sys2Proof

/-- The spec's reference values (R6, R120, R126, R78). The two OPEN tables and LED_MAP have no reference value:
here every keymap entry is `KC_NO` and no key has a LED (DESIGN CHOICE, log 5). -/
def Config.reference : Config where
  kcNo := 0x0000
  kcLeftCtrl := 0x00E0
  kcRightGui := 0x00E7
  consumerSrc := #v[0x00A8, 0x00A9, 0x00AA, 0x00AB, 0x00AC, 0x00AE, 0x00B1, 0x00B2, 0x00B3,
                    0x00B4, 0x00B5, 0x00B6, 0x00B7, 0x00B8, 0x00B9, 0x00BA, 0x00BD, 0x00BE]
  ridKeyboard := 1
  ridFullKey := 2
  ridConsumer := 3
  keyBitMap := #v[0, 1, 2, 3, 4, 5, 6, 7, 8, 9, 10, 11, 12, 13, 14, 15, 16]
  ledMap := Vector.replicate numKeys none
  keymap0 := Vector.replicate numKeys 0x0000
  keymapInit := Vector.replicate 102 0x0000

/-- The low end of the consumer range, `KC_AUDIO_MUTE` = `CONSUMER_SRC[0]` (R7, R120). -/
def Config.kcAudioMute (c : Config) : KeyCode := c.consumerSrc[0]
/-- The high end of the consumer range, `KC_BRIGHTNESS_DOWN` = `CONSUMER_SRC[17]` (R7, R120). -/
def Config.kcBrightnessDown (c : Config) : KeyCode := c.consumerSrc[17]

/-- `KC_LEFT_CTRL <= code <= KC_RIGHT_GUI` (R178). -/
def Config.inModifierRange (c : Config) (code : KeyCode) : Bool :=
  decide (c.kcLeftCtrl ≤ code ∧ code ≤ c.kcRightGui)

/-- `KC_AUDIO_MUTE <= code <= KC_BRIGHTNESS_DOWN` (R178). -/
def Config.inConsumerRange (c : Config) (code : KeyCode) : Bool :=
  decide (c.kcAudioMute ≤ code ∧ code ≤ c.kcBrightnessDown)

/-- The invariants of R7: eight modifier codes; the modifier range, the consumer range and `KC_NO` pairwise
disjoint; all below 0x7000 (so that none is a combo); the consumer codes distinct. That the ends of the consumer
range stand in order is read from "range" (DEDUCED, log 19). -/
def Config.valid (c : Config) : Bool :=
  decide (c.kcRightGui.toNat = c.kcLeftCtrl.toNat + 7) &&
  decide (c.kcAudioMute ≤ c.kcBrightnessDown) &&
  decide (c.kcRightGui < c.kcAudioMute ∨ c.kcBrightnessDown < c.kcLeftCtrl) &&
  !c.inModifierRange c.kcNo && !c.inConsumerRange c.kcNo &&
  decide (c.kcNo < 0x7000#16 ∧ c.kcRightGui < 0x7000#16 ∧ c.kcBrightnessDown < 0x7000#16) &&
  decide c.consumerSrc.toList.Nodup

/-- `REPEAT_DELAY_MS` (R6, R207). -/
def repeatDelayMs : Word := 500
/-- `REPEAT_INTERVAL_MS` (R6, R207). -/
def repeatIntervalMs : Word := 200
/-- `TX_TIMEOUT_MS` (R6, R244). -/
def txTimeoutMs : Word := 100

end Sys2Proof
end

