-- ==== Sys2Proof/Machine/State.lean ====
section
/-! DEFINITION. The state of the block (spec 10_state.md R30), its ports as plain data (R47 to R58), the reasons a
step can stop, and the state right after reset (70_reset_and_hazards.md R340). -/

namespace Sys2Proof.Machine

/-- A HID report (R126). -/
inductive HidReport where
  /-- `Keyboard{modifier, keycodes}` (R127). -/
  | keyboard (modifier : Byte) (keycodes : Vector Byte bootSlots)
  /-- `FullKeyKeyboard{modifier, bitmap}` (R128). -/
  | fullKey (modifier : Byte) (bitmap : Vector Byte bitmapBytes)
  /-- `Consumer{usage}` (R129). -/
  | consumer (usage : Usage)
  deriving DecidableEq, Repr

/-- The ConsumerRepeatState `crs` (R200). -/
structure Crs where
  active : Bool
  key : Usage
  pressStart : Word
  lastRepeat : Word
  deriving DecidableEq, Repr

/-- The UsbLinkState `link` (R230): `suspended` = 0 is LINK_ACTIVE; `rwa` is remote_wakeup_allowed. -/
structure Link where
  suspended : Bool
  rwa : Bool
  deriving DecidableEq, Repr

/-- The Sender's state (R239). -/
inductive Sender where
  | idle
  | wait (since : Word)
  deriving DecidableEq, Repr

/-- The keymap's storage (R70, R76): the cells written since reset, as (linear index `17*l + k`, entry). A cell that
is not listed reads as the keymap at reset (R341, log 12). -/
abbrev Memory := List (Nat × KeyCode)

/-- The values at the input ports, sampled with the step that reads them (R48, R51, R55, R57). All are draws of the
environment: no step constrains them (log 8). -/
structure Inputs where
  /-- DIN0 (R48). -/
  din0 : Word
  /-- DIN1 (R48). -/
  din1 : Word
  /-- NOW, in milliseconds (R57). -/
  now : Word
  /-- The first capture on RAW (R140, R271). -/
  raw0 : Sample
  /-- The second capture on RAW (R140, R272). -/
  raw1 : Sample
  /-- The answer to a WAKE request (R55). -/
  wakeOk : Bool
  deriving DecidableEq, Repr

/-- What happens to the block in one step (R307, R314). -/
inductive Event where
  /-- A strobe on CMD with the ports sampled with it (R47, R48). -/
  | command (word : Word) (ports : Inputs)
  /-- A turn of the Sender, at time `now`, with the answer `wakeOk` should it ask for a wakeup (R239). -/
  | sender (now : Word) (wakeOk : Bool)
  /-- The RESET input, with INIT_OK sampled (R58). -/
  | reset (initOk : Bool)
  deriving DecidableEq, Repr

/-- One record on an output port (R51 to R56). -/
inductive Record where
  /-- A KeyEvent on EVT (R52). -/
  | evt (key : Fin numKeys) (pressed : Bool)
  /-- `notify(row, col, pressed)` on LED (R53). -/
  | led (row col : Byte) (pressed : Bool)
  /-- `send(report)` on TX (R54). -/
  | tx (reportId : Byte) (payload : List Byte)
  /-- `request_wakeup()` on WAKE (R55). -/
  | wake
  /-- A record on LOG (R56, R306). -/
  | log (code : Byte)
  /-- One capture transaction on PLOAD, SCLK and RAW: the pulse, then the bits in the order clocked (R51, R77). -/
  | capture (bits : List Bool)
  deriving DecidableEq, Repr

/-- The block with its ports. Single-writer ownership of each field: R30. -/
structure State where
  /-- The parameters: never written (R30). -/
  cfg : Config
  /-- The model's own: the events still to come, the next first (log 1). -/
  pending : List Event
  /-- The model's own: the input ports as sampled for the current step (log 8). -/
  inp : Inputs
  /-- The model's own: the records emitted so far, oldest first (log 10). -/
  trace : List Record
  /-- The previous debounced sample. -/
  prev : Sample
  /-- `use_full_key`. -/
  useFullKey : Bool
  crs : Crs
  link : Link
  /-- `report_enabled`. -/
  reportEnabled : Bool
  /-- The active layer, 0..6 (R37). -/
  layer : Fin totalLayers
  /-- The keymap KM. -/
  km : Memory
  /-- The report queue Q, head first. -/
  queue : List HidReport
  batch : List HidReport
  /-- `cyc_press`. -/
  cycPress : Bool
  sender : Sender
  /-- STATUS (R35). -/
  status : BitVec 8
  fatal : Bool
  /-- The output port DOUT (R50). -/
  dout : Word
  deriving DecidableEq, Repr

/-- The fault states of the block. There is one: the block has no trap, exception or interrupt (R300). -/
inductive Fault where
  /-- The fatal state: the transport initialisation failed (R304, R342; D36, U8). `State.fault?` names it in every
  fatal state, right after the reset that enters it too. No step stops with it, because R304 gives every event its
  outcome there; a fault state is never final instead (`State.isFinal`). Safe (log 3, log 26). -/
  | fatal
  deriving DecidableEq, Repr

/-- The reasons a step is refused. -/
inductive Refusal where
  /-- Raised by the arms of `exec` that have no meaning yet (there is none). Safe. -/
  | notModelled (mnemonic : String)
  /-- Raised by `step` in a state whose configuration breaks R7: "A model refuses a configuration that breaks
  them." Safe. -/
  | invalidConfig
  deriving DecidableEq, Repr

/-- What a step answers. -/
abbrev Result := Host.Outcome State Fault Refusal

/-- The input ports before any event: nothing reads them before an event samples them (DESIGN CHOICE, log 8). -/
def Inputs.zero : Inputs where
  din0 := 0
  din1 := 0
  now := 0
  raw0 := 0
  raw1 := 0
  wakeOk := false

/-- The machine right after a reset with INIT_OK = 1 (R340; log 6), under the reference configuration (log 5), with
no event scheduled (log 2). -/
def State.reset : State where
  cfg := Config.reference
  pending := []
  inp := Inputs.zero
  trace := []
  prev := 0x000000
  useFullKey := false
  crs :=
    { active := false
      key := 0x0000
      pressStart := 0
      lastRepeat := 0 }
  link :=
    { suspended := false
      rwa := false }
  reportEnabled := true
  layer := 0
  km := []
  queue := []
  batch := []
  cycPress := false
  sender := .idle
  status := 0x00
  fatal := false
  dout := 0x00000000

end Sys2Proof.Machine
end

