-- ==== Sys2Proof/Machine/Ops.lean ====
section
/-! DEFINITION. The named operations every meaning is built from: the keymap memory, the report queue, the output
ports, the status register, rejecting a command, and reset. -/

namespace Sys2Proof.Machine

/-! ### The keymap (20_memory.md) -/

/-- The linear index `17*l + k` of a keymap entry (R76). -/
def linearIndex (l : Fin totalLayers) (k : Fin numKeys) : Nat := 17 * l.val + k.val

/-- The entry at a linear index right after reset (R341): layer 0 is KEYMAP0, layers 1..6 are KEYMAP_INIT. It is
what a cell that is not listed reads as. No index above 118 can be formed (R71). -/
def initialEntry (cfg : Config) (a : Nat) : KeyCode :=
  if h : a < 17 then cfg.keymap0[a] else cfg.keymapInit.toList.getD (a - 17) 0

/-- The entry at a linear index (R71, R74). -/
def Memory.read (cfg : Config) (m : Memory) (a : Nat) : KeyCode :=
  (m.lookup a).getD (initialEntry cfg a)

/-- The cells with that at index `a` set to `v`, in rising order. -/
def Memory.insert (a : Nat) (v : KeyCode) : Memory → Memory
  | [] => [(a, v)]
  | (b, w) :: rest =>
    if a < b then (a, v) :: (b, w) :: rest
    else if a = b then (a, v) :: rest
    else (b, w) :: Memory.insert a v rest

/-- The cells without the one at index `a`. -/
def Memory.erase (a : Nat) (m : Memory) : Memory := m.filter fun c => c.1 != a

/-- Write one entry (R72, R73), keeping the canonical form: an entry equal to the one at reset is not listed. -/
def Memory.write (cfg : Config) (m : Memory) (a : Nat) (v : KeyCode) : Memory :=
  if v = initialEntry cfg a then Memory.erase a m else Memory.insert a v m

/-- The canonical form: indices strictly rising, each in layers 1..6 (layer 0 is never written, R72), no entry equal
to the one at reset. -/
abbrev Memory.wf (cfg : Config) (m : Memory) : Prop :=
  (m.map Prod.fst).Pairwise (· < ·) ∧ ∀ c ∈ m, 17 ≤ c.1 ∧ c.1 < 119 ∧ c.2 ≠ initialEntry cfg c.1

/-- `KM[l][k]` (R71, R170). -/
def State.keymap (s : State) (l : Fin totalLayers) (k : Fin numKeys) : KeyCode :=
  s.km.read s.cfg (linearIndex l k)

/-- `KmWrite(l, k, v)` (R72). -/
def State.writeKeymap (l : Fin totalLayers) (k : Fin numKeys) (v : KeyCode) (s : State) : State :=
  { s with km := s.km.write s.cfg (linearIndex l k) v }

/-! ### The report queue (20_memory.md R81 to R84) -/

/-- `Q.push(x)`: append at the tail, or drop `x` when the queue is full (R81). -/
def push (q : List HidReport) (r : HidReport) : List HidReport :=
  if q.length < queueCap then q ++ [r] else q

/-- Push the reports of a batch in order (R87, R233). -/
def pushAll (q : List HidReport) (rs : List HidReport) : List HidReport := rs.foldl push q

/-- `Q.drain()` (R83). -/
def State.drain (s : State) : State := { s with queue := [] }

/-! ### The output ports (10_state.md R50 to R56) -/

/-- Emit records in order (R12). -/
def State.emit (rs : List Record) (s : State) : State := { s with trace := s.trace ++ rs }

/-- `DOUT <- v` (R50). -/
def State.setDout (v : Word) (s : State) : State := { s with dout := v }

/-- LOG code TX_TIMEOUT (R306). -/
def logTxTimeout : Byte := 0x01
/-- LOG code WAKE_FAIL (R306). -/
def logWakeFail : Byte := 0x02

/-- The records of one wakeup request whose answer is `ok`: a failure is logged and nothing else (R248). -/
def wakeRecords (ok : Bool) : List Record :=
  if ok then [.wake] else [.wake, .log logWakeFail]

/-! ### The status register and the rejection of a command (60_exceptions.md) -/

/-- The status codes of a command (R301). -/
inductive Status where
  | ok | illegalOpcode | reserved | range | readonly | fatal
  deriving DecidableEq, Repr

/-- The value of STATUS for each (R301). -/
def Status.code : Status → BitVec 8
  | .ok => 0x00
  | .illegalOpcode => 0x01
  | .reserved => 0x02
  | .range => 0x03
  | .readonly => 0x04
  | .fatal => 0x05

/-- `STATUS <- code`. -/
def State.setStatus (st : Status) (s : State) : State := { s with status := st.code }

/-- Reject a command: no effect beyond writing STATUS (R12, R301). In the fatal state every rejection is FATAL,
which is checked first (R302, R304). -/
def reject (st : Status) (s : State) : State :=
  s.setStatus (if s.fatal then .fatal else st)

/-- Run a command: FATAL is checked first (R302, R304), then the operand check `chk`; a command that passes takes
its effect and writes STATUS = OK (R301). -/
def runChecked {α : Type} (chk : Except Status α) (body : α → State → State) (s : State) : Result :=
  if s.fatal then .next (s.setStatus .fatal)
  else match chk with
    | .error st => .next (s.setStatus st)
    | .ok a => .next ((body a s).setStatus .ok)

/-- Run a command that has no operand to check. -/
def runPlain (body : State → State) (s : State) : Result :=
  runChecked (.ok ()) (fun _ => body) s

/-- The status of a word that is no command (R112, R113). -/
def statusOf : DecodeError → Status
  | .illegalOpcode => .illegalOpcode
  | .reserved => .reserved

/-- The fault state the block is in, if it is in one: the fatal state, whatever STATUS holds (R304; D36, U8). -/
def State.fault? (s : State) : Option Fault := if s.fatal then some .fatal else none

/-! ### Reset (70_reset_and_hazards.md R340 to R342) -/

/-- A reset with INIT_OK sampled: every element of R30 and DOUT at its reset value, KM at the parameters' contents
(no written cell), `fatal` = NOT INIT_OK; nothing is emitted. The parameters and the model's own fields stay. -/
def State.applyReset (initOk : Bool) (s : State) : State where
  cfg := s.cfg
  pending := s.pending
  inp := s.inp
  trace := s.trace
  prev := 0x000000
  useFullKey := false
  crs :=
    { active := false
      key := 0x0000
      pressStart := 0
      lastRepeat := 0 }
  link :=
    { suspended := false
      rwa := false }
  reportEnabled := true
  layer := 0
  km := []
  queue := []
  batch := []
  cycPress := false
  sender := .idle
  status := Status.ok.code
  fatal := !initOk
  dout := 0x00000000

end Sys2Proof.Machine
end

