-- ==== Sys2Proof/Machine/Operands.lean ====
section
/-! DEFINITION. Every operand form: the range checks of the word's fields (30_encoding.md R109), MKCOMBO's operands
(R110), the data ports (R48, R124), the map from sample bits to keys (20_memory.md R78), a sample as bytes and as
clocked bits (R49, R77), and the CSR view (10_state.md R34 to R44). -/

namespace Sys2Proof.Machine

/-! ### Fields of the command word -/

/-- LAYER in 0..6, else RANGE (R109). -/
def asLayer (layer : BitVec 3) : Except Status (Fin totalLayers) :=
  if h : layer.toNat < 7 then .ok ⟨layer.toNat, h⟩ else .error .range

/-- KEY in 0..16, else RANGE (R109). -/
def asKey (key : BitVec 5) : Except Status (Fin numKeys) :=
  if h : key.toNat < 17 then .ok ⟨key.toNat, h⟩ else .error .range

/-- LAYER and KEY, LAYER checked first (R302). -/
def asEntry (layer : BitVec 3) (key : BitVec 5) : Except Status (Fin totalLayers × Fin numKeys) :=
  match asLayer layer with
  | .error st => .error st
  | .ok l =>
    match asKey key with
    | .error st => .error st
    | .ok k => .ok (l, k)

/-- LAYER and KEY of a keymap write: RANGE before READONLY, which is layer 0 (R109, R172, R302). -/
def asWritableEntry (layer : BitVec 3) (key : BitVec 5) : Except Status (Fin totalLayers × Fin numKeys) :=
  match asEntry layer key with
  | .error st => .error st
  | .ok (l, k) => if l = 0 then .error .readonly else .ok (l, k)

/-- MKCOMBO's `base` operand (R110). -/
def mkcomboBase (base : BitVec 8) : KeyCode := base.setWidth 16

/-- MKCOMBO's `mods` operand, the one field that is shifted (R109, R110). -/
def mkcomboMods (mods : BitVec 4) : KeyCode := mods.setWidth 16 <<< 8

/-! ### The data ports -/

/-- A sample on a data port: bits [23:0]; bits [31:24] are ignored (R144, R154). -/
def samplePort (w : Word) : Sample := w.extractLsb' 0 24

/-- A pressed mask on a data port: bits [16:0]; bits [31:17] are ignored (R124). -/
def maskPort (w : Word) : KeyMask := w.extractLsb' 0 17

/-! ### Samples -/

/-- Byte `i` of a sample, at bits `8i+7..8i` (R49). -/
def sampleByte (s : Sample) (i : Nat) : Byte := s.extractLsb' (8 * i) 8

/-- A capture's bits in the order clocked, MSB first in each byte: the first is bit 7 of byte 0, the last is bit 0 of
byte 2 (R77). -/
def clockedBits (s : Sample) : List Bool :=
  (List.range sampleBits).map fun n => (sampleByte s (n / 8)).getLsbD (7 - n % 8)

/-- The keys whose bit is 1 in a sample, bit `k` for key `k`, through KEY_BIT_MAP (R78, R123). The bits that carry no
key are ignored (R146). -/
def keyBits (cfg : Config) (s : Sample) : KeyMask :=
  BitVec.ofFnLE fun k => s.getLsbD (cfg.keyBitMap.get k).val

/-- The PressedKeySet of a mask, ascending (R124, R155). -/
def pressedKeys (mask : KeyMask) : List (Fin numKeys) :=
  (List.finRange numKeys).filter fun k => mask.getLsbD k.val

/-! ### The CSR view -/

/-- The control and status registers (R34). -/
inductive Csr where
  | status | ctrl | layer | link | mode | crepCtl | crepStart | crepLast | prev | qstat | cyc
  deriving DecidableEq, Repr

/-- The register with a number (R35 to R44); an unassigned number is RANGE (R34, R109). -/
def asCsr (reg : BitVec 8) : Except Status Csr :=
  match reg.toNat with
  | 0x00 => .ok .status
  | 0x01 => .ok .ctrl
  | 0x02 => .ok .layer
  | 0x03 => .ok .link
  | 0x04 => .ok .mode
  | 0x05 => .ok .crepCtl
  | 0x06 => .ok .crepStart
  | 0x07 => .ok .crepLast
  | 0x08 => .ok .prev
  | 0x09 => .ok .qstat
  | 0x0A => .ok .cyc
  | _ => .error .range

/-- SENDER_BUSY: `sender` is `WAIT(_)` (R43). -/
def Sender.busy : Sender → Bool
  | .idle => false
  | .wait _ => true

/-- The value of a register: its fields from bit 31 down, bits of no field 0 (R34 to R44). -/
def State.csr (s : State) : Csr → Word
  | .status => 0#24 ++ s.status
  | .ctrl => 0#31 ++ BitVec.ofBool s.reportEnabled
  | .layer => 0#29 ++ BitVec.ofNat 3 s.layer.val
  | .link => 0#30 ++ BitVec.ofBool s.link.rwa ++ BitVec.ofBool s.link.suspended
  | .mode => 0#31 ++ BitVec.ofBool s.useFullKey
  | .crepCtl => s.crs.key ++ 0#15 ++ BitVec.ofBool s.crs.active
  | .crepStart => s.crs.pressStart
  | .crepLast => s.crs.lastRepeat
  | .prev => 0#8 ++ s.prev
  | .qstat => 0#23 ++ BitVec.ofBool s.sender.busy ++ 0#4 ++ BitVec.ofNat 4 s.queue.length
  | .cyc => 0#29 ++ BitVec.ofNat 2 s.batch.length ++ BitVec.ofBool s.cycPress

/-- A DOUT value of one bit (R125). -/
def boolWord (b : Bool) : Word := 0#31 ++ BitVec.ofBool b

end Sys2Proof.Machine
end

