-- ==== Sys2Proof/Machine/Flags.lean ====
section
/-! DEFINITION. The flag computations (spec 10_state.md R33): the ones whose value is computed, not copied from an
operand. -/

namespace Sys2Proof.Machine

/-- `cyc_press`: some key changed and is now pressed (R153). -/
def pressFlag (changed now : KeyMask) : Bool :=
  (List.finRange numKeys).any fun k => changed.getLsbD k.val && now.getLsbD k.val

/-- `use_full_key`: set when N > 6, cleared when N ≤ 6 (R203, R205), N the number of regular codes. -/
def fullKeyFlag (regular : List Byte) : Bool := decide (bootSlots < regular.length)

/-- Case (a) of the consumer state machine: a usage, and no repeat running for it (R207). -/
def newConsumerPress (crs : Crs) (usage : Usage) : Bool :=
  usage != 0 && (!crs.active || crs.key != usage)

/-- The repeat is due: both differences, taken modulo 2^32, pass their thresholds strictly (R207, R208). -/
def repeatDue (crs : Crs) (now : Word) : Bool :=
  decide (repeatDelayMs < now - crs.pressStart) && decide (repeatIntervalMs < now - crs.lastRepeat)

/-- DISPATCH asks for a wakeup: enabled, suspended, allowed, and a press in this cycle (R233, R235). -/
def State.wakes (s : State) : Bool :=
  s.reportEnabled && s.link.suspended && s.link.rwa && s.cycPress

/-- The Sender's wait has lasted 100 ms, modulo 2^32 (R244). -/
def timedOut (since now : Word) : Bool := decide (txTimeoutMs ≤ now - since)

end Sys2Proof.Machine
end

