-- ==== Sys2Proof/Machine/Keymap.lean ====
section
/-! DEFINITION. The keymap resolver and the combo decoder (spec 42_keymap.md). -/

namespace Sys2Proof.Machine

/-! ### Table access -/

/-- RESOLVE (R170, R171). -/
def execResolve (layer : BitVec 3) (key : BitVec 5) (s : State) : Result :=
  runChecked (asEntry layer key) (fun e s => s.setDout ((s.keymap e.1 e.2).setWidth 32)) s

/-- KMWRITE (R172). -/
def execKmwrite (layer : BitVec 3) (key : BitVec 5) (code : KeyCode) (s : State) : Result :=
  runChecked (asWritableEntry layer key) (fun e s => s.writeKeymap e.1 e.2 code) s

/-! ### Combo codes -/

/-- The combo flag (R17, R118). -/
def comboFlag : KeyCode := 0x7000
/-- The modifier field of a combo code (R119). -/
def modField : KeyCode := 0x0F00
/-- The base field of a combo code (R119). -/
def baseMask : KeyCode := 0x00FF

/-- `is_combo` (R173). -/
def isCombo (code : KeyCode) : Bool := code &&& comboFlag == comboFlag
/-- `base` (R174). -/
def comboBase (code : KeyCode) : KeyCode := code &&& baseMask
/-- `modifier_mask` (R175). -/
def modifierMask (code : KeyCode) : KeyCode := code &&& modField
/-- `make_combo` (R176). -/
def makeCombo (base mods : KeyCode) : KeyCode := comboFlag ||| (base &&& baseMask) ||| (mods &&& modField)

/-- ISCOMBO (R173). -/
def execIscombo (code : KeyCode) (s : State) : Result :=
  runPlain (fun s => s.setDout (boolWord (isCombo code))) s

/-- BASE (R174). -/
def execBase (code : KeyCode) (s : State) : Result :=
  runPlain (fun s => s.setDout ((comboBase code).setWidth 32)) s

/-- MODMASK (R175). -/
def execModmask (code : KeyCode) (s : State) : Result :=
  runPlain (fun s => s.setDout ((modifierMask code).setWidth 32)) s

/-- MKCOMBO (R110, R176). -/
def execMkcombo (mods : BitVec 4) (base : BitVec 8) (s : State) : Result :=
  runPlain (fun s => s.setDout ((makeCombo (mkcomboBase base) (mkcomboMods mods)).setWidth 32)) s

/-! ### Classification and translation -/

/-- The class of a KeyCode (R178). -/
inductive Class where
  | none | combo | modifier | consumer | plain | unclassified
  deriving DecidableEq, Repr

/-- The class numbers (R178, R179). -/
def Class.number : Class → Word
  | .none => 0
  | .combo => 1
  | .modifier => 2
  | .consumer => 3
  | .plain => 4
  | .unclassified => 5

/-- `classify`: the classes are tested in this order (R178). -/
def classify (cfg : Config) (code : KeyCode) : Class :=
  if code = cfg.kcNo then .none
  else if isCombo code then .combo
  else if cfg.inModifierRange code then .modifier
  else if cfg.inConsumerRange code then .consumer
  else if code < 0x7000#16 then .plain
  else .unclassified

/-- The usages of the fixed translation table, in its order (R180). -/
def usageTable : List Usage :=
  [0x00E2, 0x00E9, 0x00EA, 0x00B5, 0x00B6, 0x00CD, 0x018A, 0x0192, 0x0194,
   0x0221, 0x0223, 0x0224, 0x0225, 0x0226, 0x0227, 0x022A, 0x006F, 0x0070]

/-- `cxlate`: `USAGE[i]` for `CONSUMER_SRC[i]`, 0 for every other code (R181). DESIGN CHOICE (log 27): R7 admits a
`CONSUMER_SRC[i]` outside the consumer range, where R181's definition gives `USAGE[i]` and its corner case 0; the
definition is followed. No class but CONSUMER uses the result, so only CXLATE's DOUT can show it. -/
def cxlate (cfg : Config) (code : KeyCode) : Usage :=
  ((cfg.consumerSrc.toList.zip usageTable).lookup code).getD 0

/-- CLASSIFY (R179). -/
def execClassify (code : KeyCode) (s : State) : Result :=
  runPlain (fun s => s.setDout (classify s.cfg code).number) s

/-- CXLATE (R181). -/
def execCxlate (code : KeyCode) (s : State) : Result :=
  runPlain (fun s => s.setDout ((cxlate s.cfg code).setWidth 32)) s

end Sys2Proof.Machine
end

