-- ==== Sys2Proof/Machine/Report.lean ====
section
/-! DEFINITION. Building the reports and their wire format (spec 30_encoding.md R126 to R131, 43_assembler.md R203
to R205). -/

namespace Sys2Proof.Machine

/-- The keycode slots of a boot report: the codes, padded with 0 (R203). -/
def bootSlotsOf (regular : List Byte) : Vector Byte bootSlots :=
  Vector.ofFn fun i => regular.getD i.val 0

/-- A code has a bit in the bitmap exactly for usages 4..123 (R128, R205, D13). -/
def hasBitmapBit (c : Byte) : Bool := decide (4 ≤ c.toNat ∧ c.toNat ≤ 123)

/-- Set the bit of one code: bit `(c-4) mod 8` of byte `(c-4) div 8`; a code outside 4..123 sets nothing (R205). -/
def setBitmapBit (bitmap : Vector Byte bitmapBytes) (c : Byte) : Vector Byte bitmapBytes :=
  if hasBitmapBit c then
    bitmap.setIfInBounds ((c.toNat - 4) / 8) (bitmap.toList.getD ((c.toNat - 4) / 8) 0 ||| 1#8 <<< ((c.toNat - 4) % 8))
  else bitmap

/-- The bitmap of a list of codes (R205). -/
def bitmapOf (regular : List Byte) : Vector Byte bitmapBytes :=
  regular.foldl setBitmapBit (Vector.replicate bitmapBytes 0)

/-- The reset pulse: the all-zero FullKeyKeyboard report (R204). -/
def resetPulse : HidReport := .fullKey 0 (Vector.replicate bitmapBytes 0)

/-- `wire(r)`: the report id, which travels beside the payload, and the payload (R127 to R130, R79). -/
def wire (cfg : Config) : HidReport → Byte × List Byte
  | .keyboard modifier keycodes => (cfg.ridKeyboard, modifier :: keycodes.toList)
  | .fullKey modifier bitmap => (cfg.ridFullKey, modifier :: bitmap.toList)
  | .consumer usage => (cfg.ridConsumer, [usage.extractLsb' 0 8, usage.extractLsb' 8 8])

/-- The TX record of a report (R54, R242). -/
def txRecord (cfg : Config) (r : HidReport) : Record := .tx (wire cfg r).1 (wire cfg r).2

end Sys2Proof.Machine
end

