-- ==== Sys2Proof/Machine/Assembler.lean ====
section
/-! DEFINITION. The HID report assembler (spec 43_assembler.md). -/

namespace Sys2Proof.Machine

/-- What the pressed keys of a cycle contribute (R201, R202). -/
structure Contribution where
  modifier : Byte
  /-- `regular_codes`, one entry per key. -/
  regular : List Byte
  /-- `consumer_usage`: the last nonzero one, or 0. -/
  cons : Usage
  deriving DecidableEq, Repr

/-- Add one pressed key's code, by its class (R182, R201). -/
def contribute (cfg : Config) (acc : Contribution) (code : KeyCode) : Contribution :=
  match classify cfg code with
  | .none => acc
  | .combo =>
    { acc with
      modifier := acc.modifier ||| (code.extractLsb' 8 4).setWidth 8
      regular := acc.regular ++ [code.extractLsb' 0 8] }
  | .modifier => { acc with modifier := acc.modifier ||| 1#8 <<< (code - cfg.kcLeftCtrl).toNat }
  | .consumer => { acc with cons := if cxlate cfg code ≠ 0 then cxlate cfg code else acc.cons }
  | .plain => { acc with regular := acc.regular ++ [code.extractLsb' 0 8] }
  | .unclassified => acc

/-- Step 1: the contributions of a list of codes, from nothing, in order (R201). -/
def contributions (cfg : Config) (codes : List KeyCode) : Contribution :=
  codes.foldl (contribute cfg)
    { modifier := 0
      regular := []
      cons := 0 }

/-- The codes of the pressed keys on a layer, in ascending key order (R201). -/
def State.pressedCodes (s : State) (l : Fin totalLayers) (mask : KeyMask) : List KeyCode :=
  (pressedKeys mask).map fun k => s.keymap l k

/-- Steps 2 and 3: the reset pulse if the mode leaves full-key (R204), then the one primary report, of boot form when
N ≤ 6 (R203) and of full-key form when N > 6 (R205). -/
def primaryReports (useFullKey : Bool) (c : Contribution) : List HidReport :=
  if fullKeyFlag c.regular then [.fullKey c.modifier (bitmapOf c.regular)]
  else (if useFullKey then [resetPulse] else []) ++ [.keyboard c.modifier (bootSlotsOf c.regular)]

/-- Step 4, the consumer state machine: the report it emits, if any, and its next state (R207). -/
def consumerStep (crs : Crs) (usage : Usage) (now : Word) : Option HidReport × Crs :=
  if newConsumerPress crs usage then
    (some (.consumer usage),
      { active := true
        key := usage
        pressStart := now
        lastRepeat := now })
  else if usage ≠ 0 then
    if repeatDue crs now then (some (.consumer usage), { crs with lastRepeat := now }) else (none, crs)
  else if crs.active then (some (.consumer 0), { crs with active := false })
  else (none, crs)

/-- `assemble_fn` (R209): the batch, with the state the assembler owns. -/
def assembleStep (mask : KeyMask) (l : Fin totalLayers) (s : State) : State :=
  let c := contributions s.cfg (s.pressedCodes l mask)
  let out := consumerStep s.crs c.cons s.inp.now
  { s with
    batch := primaryReports s.useFullKey c ++ out.1.toList
    useFullKey := fullKeyFlag c.regular
    crs := out.2 }

/-- The batch's length as a DOUT value (R210). -/
def batchLength (s : State) : Word := BitVec.ofNat 32 s.batch.length

/-- ASSEMBLE (R210). -/
def execAssemble (layer : BitVec 3) (s : State) : Result :=
  runChecked (asLayer layer) (fun l s =>
    (assembleStep (maskPort s.inp.din0) l s).setDout (batchLength (assembleStep (maskPort s.inp.din0) l s))) s

end Sys2Proof.Machine
end

