-- ==== Sys2Proof/Machine/Link.lean ====
section
/-! DEFINITION. Report dispatch, the USB link callbacks, the global switch, layer selection and the register read
(spec 44_dispatch.md). -/

namespace Sys2Proof.Machine

/-- The body of DISPATCH without its DOUT and STATUS writes (R233, R275). The switch is tested first, then the link;
the batch is pushed only while the link is active (R234 to R237). -/
def dispatchStep (s : State) : State :=
  { (if !s.reportEnabled then s.drain
     else if s.link.suspended then (if s.wakes then s.emit (wakeRecords s.inp.wakeOk) else s)
     else { s with queue := pushAll s.queue s.batch }) with
    batch := []
    cycPress := false }

/-- DISPATCH (R233). -/
def execDispatch (s : State) : Result :=
  runPlain (fun s => (dispatchStep s).setDout (boolWord s.wakes)) s

/-- SUSPEND (R231). -/
def execSuspend (b : Bool) (s : State) : Result :=
  runPlain (fun s => { s with link := { suspended := true, rwa := b } }) s

/-- RESUME: `link.rwa` keeps its value (R232). -/
def execResume (s : State) : Result :=
  runPlain (fun s => { s with link := { s.link with suspended := false } }) s

/-- SETEN (R238). -/
def execSeten (b : Bool) (s : State) : Result :=
  runPlain (fun s => if b then { s with reportEnabled := true } else { s.drain with reportEnabled := false }) s

/-- TXDONE: a completion with no report outstanding has no effect (R243). -/
def execTxdone (s : State) : Result :=
  runPlain (fun s => { s with sender := .idle }) s

/-- SETLAYER (R246). -/
def execSetlayer (layer : BitVec 3) (s : State) : Result :=
  runChecked (asLayer layer) (fun l s => { s with layer := l }) s

/-- RDREG: the value before this command's own STATUS write (R247). -/
def execRdreg (reg : BitVec 8) (s : State) : Result :=
  runChecked (asCsr reg) (fun r s => s.setDout (s.csr r)) s

end Sys2Proof.Machine
end

