-- ==== Sys2Proof/Machine/Debounce.lean ====
section
/-! DEFINITION. The debounce filter (spec 40_debounce.md). -/

namespace Sys2Proof.Machine

/-- The edge-extension function, bit by bit on all 24 bits (R142). -/
def debounce (s0 s1 : Sample) : Sample := s1 ||| (s0 ^^^ s1)

/-- FILTER (R144). -/
def execFilter (s : State) : Result :=
  runPlain (fun s => s.setDout ((debounce (samplePort s.inp.din0) (samplePort s.inp.din1)).setWidth 32)) s

end Sys2Proof.Machine
end

