-- ==== Sys2Proof/Machine/Transition.lean ====
section
/-! DEFINITION. The key-transition detector (spec 41_transition.md). -/

namespace Sys2Proof.Machine

/-- The keys whose bit differs between two samples (R150). -/
def changedKeys (cfg : Config) (prev curr : Sample) : KeyMask := keyBits cfg (curr ^^^ prev)

/-- The LED record of a key, if it has a LED position (R151). -/
def ledRecords (cfg : Config) (k : Fin numKeys) (pressed : Bool) : List Record :=
  match cfg.ledMap.get k with
  | some (row, col) => [.led row col pressed]
  | none => []

/-- The records of one changed key: its event, then its LED call (R150). -/
def keyRecords (cfg : Config) (k : Fin numKeys) (pressed : Bool) : List Record :=
  .evt k pressed :: ledRecords cfg k pressed

/-- The records of a diff, in ascending key order (R150). -/
def diffRecords (cfg : Config) (prev curr : Sample) : List Record :=
  (pressedKeys (changedKeys cfg prev curr)).flatMap fun k => keyRecords cfg k ((keyBits cfg curr).getLsbD k.val)

/-- The body of DIFF on a sample, without its DOUT and STATUS writes (R154, R273). -/
def diffStep (curr : Sample) (s : State) : State :=
  { s.emit (diffRecords s.cfg s.prev curr) with
    prev := curr
    cycPress := pressFlag (changedKeys s.cfg s.prev curr) (keyBits s.cfg curr) }

/-- DIFF (R154). -/
def execDiff (s : State) : Result :=
  runPlain (fun s =>
    (diffStep (samplePort s.inp.din0) s).setDout ((changedKeys s.cfg s.prev (samplePort s.inp.din0)).setWidth 32)) s

end Sys2Proof.Machine
end

