-- ==== Sys2Proof/Machine/Scan.lean ====
section
/-! DEFINITION. The scan cycle (spec 45_scan.md). -/

namespace Sys2Proof.Machine

/-- Phases P1 and P2: two captures, each one transaction on the capture port (R145, R271, R272). -/
def captureStep (s : State) : State :=
  s.emit [.capture (clockedBits s.inp.raw0), .capture (clockedBits s.inp.raw1)]

/-- The debounced sample of a cycle: the first capture is sample 0, the second sample 1 (R145, R273). -/
def scanSample (s : State) : Sample := debounce s.inp.raw0 s.inp.raw1

/-- Phases P1 to P4: capture, filter, diff, resolve and assemble on the active layer (R270 to R274). -/
def scanAssemble (s : State) : State :=
  assembleStep (keyBits s.cfg (scanSample s)) s.layer (diffStep (scanSample s) (captureStep s))

/-- SCAN's DOUT: a press in this cycle in bit 1, a wakeup requested in bit 0 (R275). -/
def scanDout (press wake : Bool) : Word := 0#30 ++ BitVec.ofBool press ++ BitVec.ofBool wake

/-- SCAN, all phases as one transition (R270, R276). -/
def execScan (s : State) : Result :=
  runPlain (fun s =>
    (dispatchStep (scanAssemble s)).setDout (scanDout (scanAssemble s).cycPress (scanAssemble s).wakes)) s

end Sys2Proof.Machine
end

