-- ==== Sys2Proof/Machine/Dispatch.lean ====
section
/-! DEFINITION. One arm per command. -/

namespace Sys2Proof.Machine

def exec (i : Instr) (s : State) : Host.Outcome State Fault Refusal :=
  match i with
  | .filter => Sys2Proof.Machine.execFilter s
  | .diff => Sys2Proof.Machine.execDiff s
  | .resolve layer key => Sys2Proof.Machine.execResolve layer key s
  | .iscombo code => Sys2Proof.Machine.execIscombo code s
  | .base code => Sys2Proof.Machine.execBase code s
  | .modmask code => Sys2Proof.Machine.execModmask code s
  | .mkcombo mods base => Sys2Proof.Machine.execMkcombo mods base s
  | .classify code => Sys2Proof.Machine.execClassify code s
  | .cxlate code => Sys2Proof.Machine.execCxlate code s
  | .assemble layer => Sys2Proof.Machine.execAssemble layer s
  | .dispatch => Sys2Proof.Machine.execDispatch s
  | .scan => Sys2Proof.Machine.execScan s
  | .kmwrite layer key code => Sys2Proof.Machine.execKmwrite layer key code s
  | .setlayer layer => Sys2Proof.Machine.execSetlayer layer s
  | .seten b => Sys2Proof.Machine.execSeten b s
  | .suspend b => Sys2Proof.Machine.execSuspend b s
  | .resume => Sys2Proof.Machine.execResume s
  | .txdone => Sys2Proof.Machine.execTxdone s
  | .rdreg reg => Sys2Proof.Machine.execRdreg reg s

end Sys2Proof.Machine
end

