-- ==== Sys2Proof/Machine/SenderAgent.lean ====
section
/-! DEFINITION. The Sender, the block's one autonomous agent (spec 44_dispatch.md R239 to R245). -/

namespace Sys2Proof.Machine

/-- Step POP on the head `r` of the queue, the rest `q`: transmit and wait when the link is active (R242); discard,
ask for one wakeup and drain when it is suspended, whatever `rwa` (R241). -/
def senderPop (r : HidReport) (q : List HidReport) (s : State) : State :=
  if s.link.suspended then (s.emit (wakeRecords s.inp.wakeOk)).drain
  else
    { s.emit [txRecord s.cfg r] with
      queue := q
      sender := .wait s.inp.now }

/-- Step TIMEOUT: logged, not fatal; the report is not sent again (R244). -/
def senderTimeout (s : State) : State :=
  { s.emit [.log logTxTimeout] with sender := .idle }

/-- A turn of the Sender at time NOW: the step that is enabled, or none: it blocks on an empty queue (R240), on a
report outstanding for less than 100 ms (R244), and in the fatal state (R239, R304). -/
def senderStep (s : State) : State :=
  if s.fatal then s
  else match s.sender with
    | .idle =>
      match s.queue with
      | [] => s
      | r :: q => senderPop r q s
    | .wait since => if timedOut since s.inp.now then senderTimeout s else s

end Sys2Proof.Machine
end

