-- ==== Sys2Proof/Machine/Sequencer.lean ====
section
/-! DEFINITION. Delivering one event to the block (spec 10_state.md R47, 60_exceptions.md R307, R314). -/

namespace Sys2Proof.Machine

/-- One strobe on CMD: the word decoded and performed, or rejected with its status (R112, R113, R302). -/
def runWord (w : Word) (s : State) : Result :=
  match decode w with
  | .ok i => exec i s
  | .error e => .next (reject (statusOf e) s)

/-- The ports as a turn of the Sender samples them: it reads NOW and the wakeup answer alone (R55, R57). -/
def Inputs.forSender (p : Inputs) (now : Word) (wakeOk : Bool) : Inputs :=
  { p with
    now := now
    wakeOk := wakeOk }

/-- One event, as one atomic transition (R8, R86). -/
def runEvent (e : Event) (s : State) : Result :=
  match e with
  | .command w ports => runWord w { s with inp := ports }
  | .sender now wakeOk => .next (senderStep { s with inp := s.inp.forSender now wakeOk })
  | .reset initOk => .next (s.applyReset initOk)

/-- Take the next event of the schedule and run it; with none left the block waits for a strobe and nothing changes
(R47, log 1). A configuration that breaks R7 is refused. -/
def nextStep (s : State) : Result :=
  if !s.cfg.valid then .refused .invalidConfig
  else match s.pending with
    | [] => .next s
    | e :: rest => runEvent e { s with pending := rest }

/-- The command `w` at the head of the schedule, delivered with the ports as they stand. -/
def State.schedule (w : Word) (s : State) : State :=
  { s with pending := .command w s.inp :: s.pending }

end Sys2Proof.Machine
end

