-- ==== Sys2Proof/Machine/Step.lean ====
section
/-! DEFINITION. One step of the block with its environment, and placing a command where the next step takes it. -/

namespace Sys2Proof.Machine

/-- One step: the next event of the schedule (R8, R47). -/
def step (s : State) : Host.Outcome State Fault Refusal := nextStep s

/-- `s` with a word of the opcode table at the head of the schedule (log 2). -/
def State.withFetchWord (s : State) (nbits w : Nat) : State := s.schedule (tableWord nbits w)

end Sys2Proof.Machine
end

