-- ==== Sys2Proof/Machine/Asm.lean ====
section
/-! DEFINITION. The assembly statements and pseudo-instructions (spec 30_encoding.md R116, R117), as tokens: the
characters of a program text are no part of the model (log 21). -/

namespace Sys2Proof.Machine

/-- The mnemonics of a statement: the nineteen commands and the four pseudo-instructions (R111, R117). -/
inductive Mnemonic where
  | filter | diff | resolve | iscombo | base | modmask | mkcombo | classify | cxlate | assemble | dispatch | scan
  | kmwrite | setlayer | seten | suspend | resume | txdone | rdreg
  | enable | disable | rdstatus | combo
  deriving DecidableEq, Repr

/-- An operand: a number, or the name of a CSR (R116). -/
inductive AsmOperand where
  | num (n : Nat)
  | csr (r : Csr)
  deriving DecidableEq, Repr

/-- One statement; the values for the data ports, which are no part of the word, stand beside it (R116). -/
structure Statement where
  mnemonic : Mnemonic
  operands : List AsmOperand
  din0 : Option Word
  din1 : Option Word
  deriving DecidableEq, Repr

/-- The number of a CSR (R35 to R44). -/
def Csr.number : Csr → BitVec 8
  | .status => 0x00
  | .ctrl => 0x01
  | .layer => 0x02
  | .link => 0x03
  | .mode => 0x04
  | .crepCtl => 0x05
  | .crepStart => 0x06
  | .crepLast => 0x07
  | .prev => 0x08
  | .qstat => 0x09
  | .cyc => 0x0A

/-- A number that fits a field of `bits` bits; one that does not is no statement. -/
def fieldOf (bits n : Nat) : Option (BitVec bits) := if n < 2 ^ bits then some (BitVec.ofNat bits n) else none

/-- The `base, mods` operands of MKCOMBO and COMBO: both u16, `BASE = base[7:0]` and `MODS = mods[11:8]` (R110, R116). -/
def mkcomboOf (base mods : Nat) : Option Instr := do
  let b ← fieldOf 16 base
  let m ← fieldOf 16 mods
  some (.mkcombo (m.extractLsb' 8 4) (b.extractLsb' 0 8))

/-- One bit, written 0 or 1 (R116). -/
def bitOf : Nat → Option Bool
  | 0 => some false
  | 1 => some true
  | _ => none

/-- The command a statement stands for: its operands in the order of its format (R116), a pseudo-instruction by its
expansion (R117). -/
def Statement.instr (st : Statement) : Option Instr :=
  match st.mnemonic, st.operands with
  | .filter, [] => some .filter
  | .diff, [] => some .diff
  | .resolve, [.num l, .num k] => do some (.resolve (← fieldOf 3 l) (← fieldOf 5 k))
  | .iscombo, [.num c] => do some (.iscombo (← fieldOf 16 c))
  | .base, [.num c] => do some (.base (← fieldOf 16 c))
  | .modmask, [.num c] => do some (.modmask (← fieldOf 16 c))
  | .mkcombo, [.num b, .num m] => mkcomboOf b m
  | .classify, [.num c] => do some (.classify (← fieldOf 16 c))
  | .cxlate, [.num c] => do some (.cxlate (← fieldOf 16 c))
  | .assemble, [.num l] => do some (.assemble (← fieldOf 3 l))
  | .dispatch, [] => some .dispatch
  | .scan, [] => some .scan
  | .kmwrite, [.num l, .num k, .num c] => do some (.kmwrite (← fieldOf 3 l) (← fieldOf 5 k) (← fieldOf 16 c))
  | .setlayer, [.num l] => do some (.setlayer (← fieldOf 3 l))
  | .seten, [.num b] => do some (.seten (← bitOf b))
  | .suspend, [.num b] => do some (.suspend (← bitOf b))
  | .resume, [] => some .resume
  | .txdone, [] => some .txdone
  | .rdreg, [.num n] => do some (.rdreg (← fieldOf 8 n))
  | .rdreg, [.csr r] => some (.rdreg r.number)
  | .enable, [] => some (.seten true)
  | .disable, [] => some (.seten false)
  | .rdstatus, [] => some (.rdreg Csr.status.number)
  | .combo, [.num b, .num m] => mkcomboOf b m
  | _, _ => none

/-- The word a statement assembles to (R117). -/
def Statement.word (st : Statement) : Option Word := st.instr.map encode

/-- The strobe a statement stands for: its word, with the data-port values written beside it and the other ports as
the environment gives them (R48, R116). -/
def Statement.event (st : Statement) (ports : Inputs) : Option Event :=
  st.word.map fun w => .command w
    { ports with
      din0 := st.din0.getD ports.din0
      din1 := st.din1.getD ports.din1 }

end Sys2Proof.Machine
end

