-- ==== Sys2Proof/Safety.lean ====
section
/-! DEFINITION. What counts as a safe run: the invariant of the state, the treatment of a rejected command
and of the fatal state (60_exceptions.md R301, R304), and the agents' duties (R314, R315), which the block does not check. -/

namespace Sys2Proof.Machine

/-! ### The invariant of the state -/

/-- A report of one of the two primary kinds (R203, R205). -/
def HidReport.isPrimary : HidReport → Bool
  | .keyboard _ _ => true
  | .fullKey _ _ => true
  | .consumer _ => false

/-- The shape of a batch: empty, or the reset pulse if any, one primary report, a consumer report if any (R209). -/
inductive BatchShape : List HidReport → Prop where
  | empty : BatchShape []
  | primary (r : HidReport) (h : r.isPrimary) : BatchShape [r]
  | pulse (r : HidReport) (h : r.isPrimary) : BatchShape [resetPulse, r]
  | consumer (r : HidReport) (h : r.isPrimary) (u : Usage) : BatchShape [r, .consumer u]
  | pulseConsumer (r : HidReport) (h : r.isPrimary) (u : Usage) : BatchShape [resetPulse, r, .consumer u]

/-- Every element of R30 but `fatal` and STATUS at its reset value (R340). -/
def State.atReset (s : State) : Prop :=
  s.prev = 0 ∧ s.useFullKey = false ∧ s.crs = State.reset.crs ∧ s.link = State.reset.link ∧ s.reportEnabled = true ∧
  s.layer = 0 ∧ s.km = [] ∧ s.queue = [] ∧ s.batch = [] ∧ s.cycPress = false ∧ s.sender = .idle ∧ s.dout = 0

/-- The invariant every step keeps. -/
structure State.Inv (s : State) : Prop where
  /-- The parameters satisfy R7. -/
  cfg : s.cfg.valid = true
  /-- The keymap's storage is canonical, and no cell of layer 0 was written (R72). -/
  km : Memory.wf s.cfg s.km
  /-- At most ten reports wait (R81). -/
  queue : s.queue.length ≤ queueCap
  /-- The batch is what one ASSEMBLE leaves (R209). -/
  batch : BatchShape s.batch
  /-- STATUS holds one of the codes of R301. -/
  status : s.status.toNat ≤ 5
  /-- A running repeat has a usage (R207). -/
  repeatKey : s.crs.active = true → s.crs.key ≠ 0
  /-- A press transition leaves a pressed key in `prev` (R152, R153). -/
  press : s.cycPress = true → keyBits s.cfg s.prev ≠ 0
  /-- The fatal state is entered at reset and nothing but STATUS changes in it (R304). -/
  fatal : s.fatal = true → s.atReset

/-! ### Fault states and rejected commands -/

/-- How the spec asks a model to treat the state a command or a reset ends in: STATUS codes 1 to 4 stand for a command
the source gives no meaning (R301), the fatal state is a fault state (R304; D36, U8). The step takes the stated effect
in both (log 3); a claim leaves such runs out by asking for `accepted`. -/
inductive Treatment where
  | accepted | refusal | fault
  deriving DecidableEq, Repr

/-- The treatment of a state: the fatal state is one of fault whatever STATUS holds (right after the reset that enters
it, STATUS is OK: R340), every other state goes by its STATUS (R301, R304). -/
def State.treatment (s : State) : Treatment :=
  match s.fault? with
  | some .fatal => .fault
  | none => if s.status = Status.ok.code then .accepted else .refusal

/-- A state in which the run of a claim may end: a fault state never is (R304). -/
def State.isFinal (s : State) : Prop := s.fault? = none

/-- The observation `P` made in a state where a run ends: a fault state refutes every observation (D36, U8). -/
def State.shows (s : State) (P : State → Prop) : Prop := s.isFinal ∧ P s

/-! ### The agents and their duties -/

/-- The agents that issue commands (R314). -/
inductive Agent where
  | scanTask | usbStack | config | otherSubsystem
  deriving DecidableEq, Repr

/-- Which agent issues which command (R314). RDREG is anyone's; R314 names no issuer for the commands that only
compute on their operands, so they are anyone's too (DEDUCED, log 15). No command checks its issuer (R311). -/
def Agent.issues (a : Agent) : Instr → Bool
  | .filter => true
  | .diff => decide (a = .scanTask)
  | .resolve _ _ => true
  | .iscombo _ => true
  | .base _ => true
  | .modmask _ => true
  | .mkcombo _ _ => true
  | .classify _ => true
  | .cxlate _ => true
  | .assemble _ => decide (a = .scanTask)
  | .dispatch => decide (a = .scanTask)
  | .scan => decide (a = .scanTask)
  | .kmwrite _ _ _ => decide (a = .config)
  | .setlayer _ => decide (a = .config)
  | .seten _ => decide (a = .otherSubsystem)
  | .suspend _ => decide (a = .usbStack)
  | .resume => decide (a = .usbStack)
  | .txdone => decide (a = .usbStack)
  | .rdreg _ => true

/-- The command an event delivers, if it delivers one. -/
def Event.instr? : Event → Option Instr
  | .command w _ =>
    match decode w with
    | .ok i => some i
    | .error _ => none
  | .sender _ _ => none
  | .reset _ => none

/-- Where a split cycle stands (R350): the pressed mask its DIFF saw, once a DIFF has opened it. -/
abbrev CycleMark := Option KeyMask

/-- The split-cycle duties from a mark on: no KMWRITE between DIFF and DISPATCH (R90, R348), and ASSEMBLE sees the
keys the DIFF saw (R350). A SCAN opens no cycle. -/
def keepsCycleDuty (cfg : Config) : CycleMark → List Event → Bool
  | _, [] => true
  | _, .reset _ :: es => keepsCycleDuty cfg none es
  | mark, .sender _ _ :: es => keepsCycleDuty cfg mark es
  | mark, .command w ports :: es =>
    match decode w with
    | .error _ => keepsCycleDuty cfg mark es
    | .ok .diff => keepsCycleDuty cfg (some (keyBits cfg (samplePort ports.din0))) es
    | .ok (.assemble _) => (mark.isNone || mark == some (maskPort ports.din0)) && keepsCycleDuty cfg mark es
    | .ok (.kmwrite _ _ _) => mark.isNone && keepsCycleDuty cfg mark es
    | .ok .dispatch => keepsCycleDuty cfg none es
    | .ok _ => keepsCycleDuty cfg mark es

end Sys2Proof.Machine
end

