-- ==== Sys2Proof/Certificates/Slice0/Obligations.lean ====
section
/-! DEFINITION. The statements for the provers. A command's statement says its own effect as the next state of `exec`
(everything the update does not name is unchanged), what rejects it, and which words decode to it. -/

open Sys2Proof Sys2Proof.Machine

namespace Sys2Proof.Claims

/-- In the fatal state the command writes STATUS = FATAL (0x05) and changes nothing else (R301, R304). -/
def FatalRejects (i : Instr) : Prop :=
  ∀ s : State, s.fatal = true → exec i s = .next { s with status := 0x05 }

/-- The words with opcode `opc`: with every bit of `zeros` 0 they decode to `i`; otherwise they write
STATUS = RESERVED (0x02), or FATAL in the fatal state, and change nothing else (R113, R302). -/
def CommandWord (opc : BitVec 8) (zeros : Word) (i : Word → Instr) : Prop :=
  ∀ (w : Word) (s : State), w.extractLsb' 24 8 = opc →
    (w &&& zeros = 0 → decode w = .ok (i w)) ∧
    (w &&& zeros ≠ 0 → runWord w s = .next { s with status := if s.fatal then 0x05 else 0x02 })

/-- The bit of key `k` in a sample, through KEY_BIT_MAP (R78). -/
def keyBit (cfg : Config) (x : Sample) (k : Fin 17) : Bool := x.getLsbD (cfg.keyBitMap.get k).val

/-- The codes of the keys a mask holds, on a layer, in ascending key order (R201). -/
def codesOf (s : State) (l : Fin 7) (mask : KeyMask) : List KeyCode :=
  ((List.finRange 17).filter fun k => mask.getLsbD k.val).map fun k => s.keymap l k

/-- One list of consumer reports at most one long (R209: "zero or one report"). -/
def AtMostOneConsumer (rs : List HidReport) : Prop := rs.length ≤ 1 ∧ ∀ r ∈ rs, ∃ u, r = .consumer u

/-- The reports an event hands to the queue: the batch of a DISPATCH, the batch a SCAN assembles (R233, R270). -/
def handedOver (s : State) : Event → List HidReport
  | .command w ports =>
    match decode w with
    | .ok .dispatch => s.batch
    | .ok .scan => (scanAssemble { s with inp := ports }).batch
    | _ => []
  | .sender _ _ => []
  | .reset _ => []

/-- The records of one port, in order. -/
def evtLed (tr : List Record) : List Record :=
  tr.filter fun r => match r with | .evt _ _ => true | .led _ _ _ => true | _ => false
def txs (tr : List Record) : List (Byte × List Byte) :=
  tr.filterMap fun r => match r with | .tx i p => some (i, p) | _ => none
def wakes (tr : List Record) : Nat := tr.countP fun r => match r with | .wake => true | _ => false
def logs (tr : List Record) : List Byte := tr.filterMap fun r => match r with | .log c => some c | _ => none
def isCapture : Record → Bool
  | .capture _ => true
  | _ => false

/-- The answer to a wakeup request that an event carries (R55). -/
def wakeAnswer : Event → Bool
  | .command _ ports => ports.wakeOk
  | .sender _ ok => ok
  | .reset _ => true

/-- The value RDREG gives for each assigned number, as a number: every field at its place, the other bits 0
(R35 to R44). -/
def csrNumber (s : State) (n : Nat) : Nat :=
  match n with
  | 0 => s.status.toNat
  | 1 => s.reportEnabled.toNat
  | 2 => s.layer.val
  | 3 => s.link.suspended.toNat + 2 * s.link.rwa.toNat
  | 4 => s.useFullKey.toNat
  | 5 => s.crs.active.toNat + 65536 * s.crs.key.toNat
  | 6 => s.crs.pressStart.toNat
  | 7 => s.crs.lastRepeat.toNat
  | 8 => s.prev.toNat
  | 9 => s.queue.length + 256 * (if s.sender = .idle then 0 else 1)
  | 10 => s.cycPress.toNat + 2 * s.batch.length
  | _ => 0

/-- The parameter invariants of R7, clause by clause: eight modifier codes; the three sets pairwise disjoint; all below
0x7000 and none a combo; the consumer codes distinct. The second clause is not in R7: the ends of the consumer range
stand in order (DEDUCED, log 19). -/
def ParametersMeetR7 (c : Config) : Prop :=
  let modifier := fun x : KeyCode => c.kcLeftCtrl.toNat ≤ x.toNat ∧ x.toNat ≤ c.kcRightGui.toNat
  let consumer := fun x : KeyCode => (c.consumerSrc[0]).toNat ≤ x.toNat ∧ x.toNat ≤ (c.consumerSrc[17]).toNat
  c.kcRightGui.toNat = c.kcLeftCtrl.toNat + 7 ∧
  (c.consumerSrc[0]).toNat ≤ (c.consumerSrc[17]).toNat ∧
  (∀ x, ¬ (modifier x ∧ consumer x)) ∧ ¬ modifier c.kcNo ∧ ¬ consumer c.kcNo ∧
  (∀ x, modifier x ∨ consumer x ∨ x = c.kcNo → x.toNat < 0x7000 ∧ x &&& 0x7000 ≠ 0x7000) ∧
  (∀ i j : Fin 18, c.consumerSrc[i] = c.consumerSrc[j] → i = j)

/-- The must-be-0 bits of each opcode, and none for an opcode that is no command (R101 to R108, R111). -/
def zerosOf (opc : Nat) : Option Nat :=
  if opc = 0x03 then some 0x00FFFF
  else if opc = 0x0D then some 0
  else if opc = 0x0A ∨ opc = 0x0E then some 0x1FFFFF
  else if opc = 0x07 then some 0xFFF000
  else if opc = 0x0F ∨ opc = 0x10 then some 0xFFFFFE
  else if opc = 0x13 then some 0xFFFF00
  else if opc ∈ [0x04, 0x05, 0x06, 0x08, 0x09] then some 0xFF0000
  else if opc ∈ [0x01, 0x02, 0x0B, 0x0C, 0x11, 0x12] then some 0xFFFFFF
  else none

/-- The range check of each opcode's operands (R109, R301). -/
def outOfRange (opc : Nat) (w : Word) : Bool :=
  (opc ∈ [0x03, 0x0A, 0x0D, 0x0E] ∧ (w >>> 21 &&& 7#32) = 7#32) ∨
  (opc ∈ [0x03, 0x0D] ∧ 17#32 ≤ (w >>> 16 &&& 31#32)) ∨
  (opc = 0x13 ∧ 11#32 ≤ (w &&& 255#32))

/-- The status every word ends with, the causes in the order FATAL, ILLEGAL_OPCODE, RESERVED, RANGE, READONLY
(R302). -/
def statusOfWord (fatal : Bool) (w : Word) : BitVec 8 :=
  let opc := (w >>> 24).toNat
  if fatal then 0x05
  else match zerosOf opc with
    | none => 0x01
    | some zeros =>
      if w &&& BitVec.ofNat 32 zeros ≠ 0 then 0x02
      else if outOfRange opc w then 0x03
      else if opc = 0x0D ∧ (w >>> 21 &&& 7#32) = 0#32 then 0x04
      else 0x00

end Sys2Proof.Claims

open Sys2Proof.Claims

/-! ### Encoding and decoding -/

/-- Encoding and decoding agree: the word of every command, its operands at every value the word admits (the
out-of-range ones too), decodes to it. Rests on the spec's own command interface (D2). -/
def Obligations.DecodeOfEncodeIsTheCommand : Prop := ∀ i : Instr, decode (encode i) = .ok i

/-- The other direction: each word has one meaning, so the word a command was decoded from is its encoding: no
don't-care bit, no second spelling (R100, R113, R115; D2, D3). -/
def Obligations.EncodeOfDecodeIsTheWord : Prop := ∀ (w : Word) (i : Instr), decode w = .ok i → encode i = w

/-- Words written out in the spec decode to the statements beside them (95_test_vectors.md; R116). -/
def Obligations.WordsOfTheSpecDecode : Prop :=
  decode 0x01000000 = .ok .filter ∧ decode 0x02000000 = .ok .diff ∧ decode 0x03440000 = .ok (.resolve 2 4) ∧
  decode 0x04007104 = .ok (.iscombo 0x7104) ∧ decode 0x07000A80 = .ok (.mkcombo 0xA 0x80) ∧
  decode 0x0A600000 = .ok (.assemble 3) ∧ decode 0x0DD08005 = .ok (.kmwrite 6 16 0x8005) ∧
  decode 0x0EC00000 = .ok (.setlayer 6) ∧ decode 0x10000001 = .ok (.suspend true) ∧
  decode 0x1300000A = .ok (.rdreg 0x0A) ∧ decode 0x20FFFFFF = .error .illegalOpcode ∧
  decode 0x02800000 = .error .reserved

/-- The pseudo-instructions and their words (R117; D33): ENABLE, DISABLE, RDSTATUS, and COMBO for every pair of
u16 operands; and every statement that stands for a command assembles to a word, its encoding, which decodes to that
command. -/
def Obligations.PseudoInstructionWords : Prop :=
  (∀ d0 d1, (Statement.mk .enable [] d0 d1).word = some 0x0F000001) ∧
  (∀ d0 d1, (Statement.mk .disable [] d0 d1).word = some 0x0F000000) ∧
  (∀ d0 d1, (Statement.mk .rdstatus [] d0 d1).word = some 0x13000000) ∧
  (∀ (b m : BitVec 16) (d0 d1 : Option Word),
    (Statement.mk .combo [.num b.toNat, .num m.toNat] d0 d1).word =
      some (0x07000000#32 ||| (m.setWidth 32 &&& 0x0F00#32) ||| (b.setWidth 32 &&& 0xFF#32))) ∧
  (∀ (st : Statement) (i : Instr), st.instr = some i →
    ∃ w, st.word = some w ∧ w = encode i ∧ decode w = .ok i)

/-! ### Steps -/

/-- A step runs the decoded command: with a valid configuration, a strobe at the head of the schedule whose word
decodes to `i` makes the step `exec i` at the state that has taken the event and sampled the ports; a word that
is no command is rejected; a turn of the Sender, a reset and an empty schedule do what they do. `withFetchWord`
puts a word where the next step takes it. How events reach the block is the model's (log 1, log 2), and so is that a
rejected word ends in a next state (log 3). -/
def Obligations.StepRunsTheDecodedCommand : Prop :=
  ∀ s : State, s.cfg.valid = true →
    (∀ w p rest i, s.pending = .command w p :: rest → decode w = .ok i →
      step s = exec i { s with pending := rest, inp := p }) ∧
    (∀ w p rest e, s.pending = .command w p :: rest → decode w = .error e →
      step s = .next { s with
        pending := rest
        inp := p
        status := if s.fatal then 0x05 else (match e with | .illegalOpcode => 0x01 | .reserved => 0x02) }) ∧
    (∀ t ok rest, s.pending = .sender t ok :: rest →
      step s = .next (senderStep { s with
        pending := rest
        inp := { s.inp with
          now := t
          wakeOk := ok } })) ∧
    (∀ ok rest, s.pending = .reset ok :: rest → step s = .next ({ s with pending := rest }.applyReset ok)) ∧
    (s.pending = [] → step s = .next s) ∧
    (∀ (n w : Nat) i, decodeTableWord n w = some i → step (s.withFetchWord n w) = exec i s)

/-- A configuration that breaks R7 is refused, at every step, and nothing else is; the validity the step checks is R7
spelled out. That the parameters are a field of the state and the refusal is the step's is log 4; that the ends of the
consumer range must stand in order is the model's reading (log 19). That every other step answers a next state, a
rejected command and a step in the fatal state too, is the model's choice (log 3, log 26): R301 and R304 have a model
treat those as refusals and as a fault. -/
def Obligations.OnlyInvalidConfigurationIsRefused : Prop :=
  ∀ s : State, (s.cfg.valid = true ↔ ParametersMeetR7 s.cfg) ∧
    (¬ ParametersMeetR7 s.cfg → step s = .refused .invalidConfig) ∧
    (ParametersMeetR7 s.cfg → ∃ t, step s = .next t)

/-! ### Statuses -/

/-- The status of every 32-bit word in every state, by the order of checks of R302, and no word stops the block
(D3: the status codes are the spec's; that they are next states is the model's reading, log 3). -/
def Obligations.StatusOfEveryWord : Prop :=
  ∀ (w : Word) (s : State), ∃ t, runWord w s = .next t ∧ t.status = statusOfWord s.fatal w

/-- A rejected command is precise: a command that ends with a status other than OK changed nothing but STATUS
(R301, R309; D3, D27). -/
def Obligations.RejectedCommandChangesOnlyStatus : Prop :=
  ∀ (i : Instr) (s t : State), exec i s = .next t → t.status ≠ 0x00 → t = { s with status := t.status }

/-- No data condition raises a status: a command with legal operands, outside the fatal state, ends with OK
whatever the queue, the link, the switch, the repeat and the codes are. -/
def Obligations.DataConditionsRaiseNoStatus : Prop :=
  ∀ (i : Instr) (s : State), i.wellFormed = true → s.fatal = false → ∃ t, exec i s = .next t ∧ t.status = 0x00

/-- The fatal state: every word raises FATAL and does nothing else, the Sender takes no step, a reset clears it
exactly with INIT_OK = 1 (R304, R342; D36). It is a fault state that is never final (R304; U8): whatever STATUS holds,
so right after the reset that enters it too, it is one of fault, no run of a claim ends in it and it refutes every
observation. Only a reset with INIT_OK = 0 enters it, and every event but a reset with INIT_OK = 1 leaves it a fault
state. That the events in it are next states is the model's reading (log 3, log 26). -/
def Obligations.FatalStateOnlyLeavesByReset : Prop :=
  (∀ s : State, s.fatal = true →
    (∀ w : Word, runWord w s = .next { s with status := 0x05 }) ∧ senderStep s = s ∧
    (∀ ok, (s.applyReset ok).fatal = !ok) ∧
    s.treatment = .fault ∧ ¬ s.isFinal ∧ ∀ P : State → Prop, ¬ s.shows P) ∧
  (∀ s t : State, runEvent (.reset false) s = .next t → t.status = 0x00 ∧ t.treatment = .fault) ∧
  (∀ (e : Event) (s t : State), runEvent e s = .next t →
    (s.treatment = .fault → t.treatment = .fault ∨ (e = .reset true ∧ t.treatment = .accepted ∧ t.isFinal)) ∧
    (s.treatment ≠ .fault → t.treatment = .fault → e = .reset false))

/-! ### Debounce filter and transition detector -/

/-- The edge-extension filter on all 24 bits. -/
def Obligations.DebounceForcesUnstableBitsPressed : Prop :=
  ∀ s0 s1 : Sample, debounce s0 s1 = s1 ||| (s0 ^^^ s1) ∧
    ∀ n < 24, (debounce s0 s1).getLsbD n = if s0.getLsbD n ≠ s1.getLsbD n then true else s1.getLsbD n

/-- FILTER, whole: bits [31:24] of the data ports are ignored, and nothing but DOUT and STATUS is written. -/
def Obligations.FilterCombinesTheSamples : Prop :=
  (∀ s : State, s.fatal = false →
    exec .filter s = .next { s with
      dout := (s.inp.din1.extractLsb' 0 24 ||| (s.inp.din0.extractLsb' 0 24 ^^^ s.inp.din1.extractLsb' 0 24)).setWidth 32
      status := 0x00 }) ∧
  FatalRejects .filter ∧ CommandWord 0x01 0x00FFFFFF (fun _ => .filter)

/-- DIFF, whole: one event per key whose bit changed, in ascending order, each followed by its LED record if the key
has a position; `prev` takes all 24 bits; `cyc_press` says whether some key changed to pressed; DOUT is the mask of
changed keys. The ascending order is decision D7, the key-to-bit map decision D5. That the mask is by key under every
map is the model's reading (log 14); under the reference map it is R154's `(curr ^ prev)[16:0]`. -/
def Obligations.DiffEmitsOneEventPerChangedKey : Prop :=
  (∀ (s : State) (curr : Sample), s.fatal = false → curr = s.inp.din0.extractLsb' 0 24 →
    exec .diff s = .next { s with
      trace := s.trace ++ (List.finRange 17).flatMap fun k =>
        if keyBit s.cfg curr k ≠ keyBit s.cfg s.prev k then
          Record.evt k (keyBit s.cfg curr k) ::
            (match s.cfg.ledMap.get k with
              | some (row, col) => [Record.led row col (keyBit s.cfg curr k)]
              | none => [])
        else []
      prev := curr
      cycPress := decide (∃ k, keyBit s.cfg curr k ≠ keyBit s.cfg s.prev k ∧ keyBit s.cfg curr k = true)
      dout := (BitVec.ofFnLE fun k : Fin 17 => keyBit s.cfg curr k != keyBit s.cfg s.prev k).setWidth 32
      status := 0x00 }) ∧
  (∀ (s : State) (x y : Sample), s.cfg.keyBitMap = Config.reference.keyBitMap →
    (BitVec.ofFnLE fun k : Fin 17 => keyBit s.cfg x k != keyBit s.cfg y k) = (x ^^^ y).extractLsb' 0 17) ∧
  FatalRejects .diff ∧ CommandWord 0x02 0x00FFFFFF (fun _ => .diff)

/-- The bits beyond the 17 keys in the commands that read a sample, under the reference map (R146, R20; D5, D37). Two
SCANs whose samples and stored samples agree on bits 0..16 end alike in everything but `prev`, the sampled ports and
the capture records (log 11); so do two DIFFs, but for `prev` and the sampled ports. FILTER combines those bits like
the rest, so its DOUT, and it alone, holds them. -/
def Obligations.ExtraSampleBitsChangeNothing : Prop :=
  (∀ (s : State) (prev' raw0' raw1' : Sample), s.cfg.keyBitMap = Config.reference.keyBitMap → s.fatal = false →
    s.prev.extractLsb' 0 17 = prev'.extractLsb' 0 17 → s.inp.raw0.extractLsb' 0 17 = raw0'.extractLsb' 0 17 →
    s.inp.raw1.extractLsb' 0 17 = raw1'.extractLsb' 0 17 →
    ∃ t t', exec .scan s = .next t ∧
      exec .scan { s with
        prev := prev'
        inp := { s.inp with
          raw0 := raw0'
          raw1 := raw1' } } = .next t' ∧
      t.trace.filter (fun r => !isCapture r) = t'.trace.filter (fun r => !isCapture r) ∧
      t' = { t with
        prev := raw0' ||| raw1'
        inp := t'.inp
        trace := t'.trace }) ∧
  (∀ (s : State) (prev' : Sample) (din0' : Word), s.cfg.keyBitMap = Config.reference.keyBitMap → s.fatal = false →
    s.prev.extractLsb' 0 17 = prev'.extractLsb' 0 17 → s.inp.din0.extractLsb' 0 17 = din0'.extractLsb' 0 17 →
    ∃ t, exec .diff s = .next t ∧
      exec .diff { s with
        prev := prev'
        inp := { s.inp with din0 := din0' } } = .next { t with
          prev := din0'.extractLsb' 0 24
          inp := { s.inp with din0 := din0' } }) ∧
  (∀ s : State, s.fatal = false →
    ∃ t, exec .filter s = .next t ∧ t.prev = s.prev ∧ t.trace = s.trace ∧
      ∀ n < 24, t.dout.getLsbD n = (s.inp.din0.getLsbD n || s.inp.din1.getLsbD n))

/-! ### Keymap and combo codes -/

/-- RESOLVE, whole: the entry as it stands, or RANGE (out-of-range operands: D3). -/
def Obligations.ResolveReadsTheEntry : Prop :=
  (∀ (l : BitVec 3) (k : BitVec 5) (s : State) (hl : l.toNat < 7) (hk : k.toNat < 17), s.fatal = false →
    exec (.resolve l k) s = .next { s with
      dout := (s.keymap ⟨l.toNat, hl⟩ ⟨k.toNat, hk⟩).setWidth 32
      status := 0x00 }) ∧
  (∀ (l : BitVec 3) (k : BitVec 5) (s : State), (l.toNat = 7 ∨ 17 ≤ k.toNat) → s.fatal = false →
    exec (.resolve l k) s = .next { s with status := 0x03 }) ∧
  (∀ l k, FatalRejects (.resolve l k)) ∧
  CommandWord 0x03 0x0000FFFF (fun w => .resolve (w.extractLsb' 21 3) (w.extractLsb' 16 5))

/-- KMWRITE, whole: the entry named holds the code, every other entry and everything else but STATUS is unchanged;
RANGE before READONLY (D3, D24). -/
def Obligations.KmwriteSetsOneEntry : Prop :=
  (∀ (l : BitVec 3) (k : BitVec 5) (v : KeyCode) (s : State) (hl : l.toNat < 7) (hk : k.toNat < 17),
    l.toNat ≠ 0 → s.fatal = false →
    ∃ t, exec (.kmwrite l k v) s = .next t ∧
      t = { s with
        km := t.km
        status := 0x00 } ∧
      t.keymap ⟨l.toNat, hl⟩ ⟨k.toNat, hk⟩ = v ∧
      ∀ l' k', (l', k') ≠ ((⟨l.toNat, hl⟩, ⟨k.toNat, hk⟩) : Fin 7 × Fin 17) → t.keymap l' k' = s.keymap l' k') ∧
  (∀ (l : BitVec 3) (k : BitVec 5) (v : KeyCode) (s : State), (l.toNat = 7 ∨ 17 ≤ k.toNat) → s.fatal = false →
    exec (.kmwrite l k v) s = .next { s with status := 0x03 }) ∧
  (∀ (k : BitVec 5) (v : KeyCode) (s : State), k.toNat < 17 → s.fatal = false →
    exec (.kmwrite 0 k v) s = .next { s with status := 0x04 }) ∧
  (∀ l k v, FatalRejects (.kmwrite l k v)) ∧
  CommandWord 0x0D 0 (fun w => .kmwrite (w.extractLsb' 21 3) (w.extractLsb' 16 5) (w.extractLsb' 0 16))

/-- Only KMWRITE writes the keymap, only the entry it names, and never layer 0: no command changes an entry of layer
0, and no other command changes any entry. -/
def Obligations.LayerZeroIsNeverWritten : Prop :=
  ∀ (i : Instr) (s t : State), exec i s = .next t →
    (∀ k, t.keymap 0 k = s.keymap 0 k) ∧
    ((∀ l k v, i ≠ .kmwrite l k v) → t.km = s.km) ∧
    (∀ l k v, i = .kmwrite l k v → t.status = 0x00 →
      ∀ l' k', t.keymap l' k' = if l'.val = l.toNat ∧ k'.val = k.toNat then v else s.keymap l' k')

/-- ISCOMBO, BASE and MODMASK, whole, on every u16. -/
def Obligations.ComboFieldCommands : Prop :=
  (∀ (c : KeyCode) (s : State), s.fatal = false →
    exec (.iscombo c) s = .next { s with
      dout := if c &&& 0x7000 = 0x7000 then 1 else 0
      status := 0x00 } ∧
    exec (.base c) s = .next { s with
      dout := (c &&& 0x00FF).setWidth 32
      status := 0x00 } ∧
    exec (.modmask c) s = .next { s with
      dout := (c &&& 0x0F00).setWidth 32
      status := 0x00 }) ∧
  (∀ c, FatalRejects (.iscombo c) ∧ FatalRejects (.base c) ∧ FatalRejects (.modmask c)) ∧
  CommandWord 0x04 0x00FF0000 (fun w => .iscombo (w.extractLsb' 0 16)) ∧
  CommandWord 0x05 0x00FF0000 (fun w => .base (w.extractLsb' 0 16)) ∧
  CommandWord 0x06 0x00FF0000 (fun w => .modmask (w.extractLsb' 0 16))

/-- MKCOMBO, whole; `make_combo` on all u16 arguments, with bit 15 always 0. -/
def Obligations.MkcomboBuildsTheCode : Prop :=
  (∀ b m : KeyCode, makeCombo b m = 0x7000 ||| (b &&& 0x00FF) ||| (m &&& 0x0F00) ∧ (makeCombo b m).getLsbD 15 = false) ∧
  (∀ (m : BitVec 4) (b : BitVec 8) (s : State), s.fatal = false →
    exec (.mkcombo m b) s = .next { s with
      dout := (0x7000#16 ||| b.setWidth 16 ||| (m.setWidth 16 <<< 8)).setWidth 32
      status := 0x00 }) ∧
  (∀ m b, FatalRejects (.mkcombo m b)) ∧
  CommandWord 0x07 0x00FFF000 (fun w => .mkcombo (w.extractLsb' 8 4) (w.extractLsb' 0 8))

/-- The combo round trip, run through the commands: MKCOMBO's DOUT, given to ISCOMBO, BASE and MODMASK, each from the
state MKCOMBO leaves, gives back 1, the base and the mask, for every base and every subset of the modifiers (R183,
which the spec derives). -/
def Obligations.ComboRoundTrip : Prop :=
  ∀ (m : BitVec 4) (b : BitVec 8) (s : State), s.fatal = false →
    ∃ t, exec (.mkcombo m b) s = .next t ∧
      exec (.iscombo (t.dout.setWidth 16)) t = .next { t with dout := 1 } ∧
      exec (.base (t.dout.setWidth 16)) t = .next { t with dout := b.setWidth 32 } ∧
      exec (.modmask (t.dout.setWidth 16)) t = .next { t with dout := m.setWidth 32 <<< 8 }

/-- CLASSIFY, whole, and the classes of the whole u16 space under the reference code values: the ranges of R121
(D9, D10, D35). -/
def Obligations.ClassifyNumbersTheClasses : Prop :=
  (∀ (c : KeyCode) (s : State), s.fatal = false →
    exec (.classify c) s = .next { s with
      dout :=
        if c = s.cfg.kcNo then 0
        else if c &&& 0x7000 = 0x7000 then 1
        else if s.cfg.kcLeftCtrl ≤ c ∧ c ≤ s.cfg.kcRightGui then 2
        else if s.cfg.consumerSrc[0] ≤ c ∧ c ≤ s.cfg.consumerSrc[17] then 3
        else if c < 0x7000 then 4
        else 5
      status := 0x00 }) ∧
  (∀ (cfg : Config) (c : KeyCode), cfg.kcNo = 0 → cfg.kcLeftCtrl = 0x00E0 → cfg.kcRightGui = 0x00E7 →
    cfg.consumerSrc = Config.reference.consumerSrc →
    (classify cfg c).number =
      if c.toNat = 0 then 0
      else if 0x00E0 ≤ c.toNat ∧ c.toNat ≤ 0x00E7 then 2
      else if 0x00A8 ≤ c.toNat ∧ c.toNat ≤ 0x00BE then 3
      else if c.toNat < 0x7000 then 4
      else if c.toNat < 0x8000 ∨ 0xF000 ≤ c.toNat then 1
      else 5) ∧
  (∀ c, FatalRejects (.classify c)) ∧
  CommandWord 0x08 0x00FF0000 (fun w => .classify (w.extractLsb' 0 16))

/-- CXLATE, whole: `USAGE[i]` for `CONSUMER_SRC[i]` in a valid configuration, 0 for every code not in the table
(R180, R181; D9, D12). That an entry outside the consumer range, which R7 admits, translates too is the model's choice
(log 27). -/
def Obligations.CxlateTranslatesTheTable : Prop :=
  (∀ (c : KeyCode) (s : State), s.fatal = false → s.cfg.valid = true →
    ∃ u : Usage, exec (.cxlate c) s = .next { s with
        dout := u.setWidth 32
        status := 0x00 } ∧
      (∀ i : Fin 18, c = s.cfg.consumerSrc[i] →
        u = [0x00E2#16, 0x00E9, 0x00EA, 0x00B5, 0x00B6, 0x00CD, 0x018A, 0x0192, 0x0194, 0x0221, 0x0223, 0x0224,
             0x0225, 0x0226, 0x0227, 0x022A, 0x006F, 0x0070].getD i.val 0) ∧
      ((∀ i : Fin 18, c ≠ s.cfg.consumerSrc[i]) → u = 0)) ∧
  (∀ c, FatalRejects (.cxlate c)) ∧
  CommandWord 0x09 0x00FF0000 (fun w => .cxlate (w.extractLsb' 0 16))

/-! ### The assembler -/

/-- ASSEMBLE, whole: the batch is the reset pulse (N ≤ 6 out of full-key mode), the primary report, the consumer
report if any; `use_full_key` and `crs` follow; DOUT is the length; or RANGE. What the parts are is said by the
statements below (D3, D17, D35). -/
def Obligations.AssembleBuildsTheBatch : Prop :=
  (∀ (l : BitVec 3) (s : State) (hl : l.toNat < 7), s.fatal = false →
    let c := contributions s.cfg (codesOf s ⟨l.toNat, hl⟩ (s.inp.din0.extractLsb' 0 17))
    let out := consumerStep s.crs c.cons s.inp.now
    let batch :=
      (if c.regular.length ≤ 6 then
        (if s.useFullKey then [resetPulse] else []) ++ [.keyboard c.modifier (bootSlotsOf c.regular)]
       else [.fullKey c.modifier (bitmapOf c.regular)]) ++ out.1.toList
    exec (.assemble l) s = .next { s with
      batch := batch
      useFullKey := decide (6 < c.regular.length)
      crs := out.2
      dout := BitVec.ofNat 32 batch.length
      status := 0x00 }) ∧
  (∀ s : State, s.fatal = false → exec (.assemble 7) s = .next { s with status := 0x03 }) ∧
  (∀ l, FatalRejects (.assemble l)) ∧
  CommandWord 0x0A 0x001FFFFF (fun w => .assemble (w.extractLsb' 21 3))

/-- Step 1: `regular` holds the low byte of every combo and plain code in key order, the modifier byte has a bit
exactly for each combo bit and each modifier code, and the consumer usage is the last nonzero one (R201, R202; the
bit of each modifier is decision D11). -/
def Obligations.ContributionsByClass : Prop :=
  ∀ (cfg : Config) (codes : List KeyCode),
    (contributions cfg codes).regular =
      (codes.filter fun c => classify cfg c = .combo ∨ classify cfg c = .plain).map (fun c => c.extractLsb' 0 8) ∧
    (∀ n < 8, (contributions cfg codes).modifier.getLsbD n = true ↔
      ∃ c ∈ codes, (classify cfg c = .combo ∧ n < 4 ∧ c.getLsbD (8 + n) = true) ∨
        (classify cfg c = .modifier ∧ (c - cfg.kcLeftCtrl).toNat = n)) ∧
    (contributions cfg codes).cons =
      (((codes.filter fun c => classify cfg c = .consumer).map (cxlate cfg)).filter fun u => u ≠ 0).getLastD 0

/-- The case N ≤ 6: the boot report with the cycle's modifier byte and the codes padded by zeros, the all-zero
FullKeyKeyboard report first if `use_full_key` was true, and `use_full_key` ends false. In the case N > 6 no pulse
comes before the one full-key report. -/
def Obligations.BootReportAndResetPulse : Prop :=
  ∀ (l : BitVec 3) (s : State) (hl : l.toNat < 7) (c : Contribution), s.fatal = false →
    c = contributions s.cfg (codesOf s ⟨l.toNat, hl⟩ (s.inp.din0.extractLsb' 0 17)) →
    (c.regular.length ≤ 6 →
      ∃ t, ∃ slots : Vector Byte 6, ∃ consumer, exec (.assemble l) s = .next t ∧ t.useFullKey = false ∧
        slots.toList = c.regular ++ List.replicate (6 - c.regular.length) 0 ∧ AtMostOneConsumer consumer ∧
        t.batch = (if s.useFullKey then [.fullKey 0 (Vector.replicate 15 0)] else []) ++
          [.keyboard c.modifier slots] ++ consumer) ∧
    (6 < c.regular.length →
      ∃ t bitmap consumer, exec (.assemble l) s = .next t ∧ AtMostOneConsumer consumer ∧
        t.batch = .fullKey c.modifier bitmap :: consumer)

/-- The case N > 6: one full-key report with the cycle's modifier byte, whose bit `j` is set exactly when some regular
code is `j + 4` (so a code outside 4..123 sets nothing, D13), and `use_full_key` ends true. -/
def Obligations.FullKeyBitmapHoldsTheCodes : Prop :=
  ∀ (l : BitVec 3) (s : State) (hl : l.toNat < 7) (c : Contribution), s.fatal = false →
    c = contributions s.cfg (codesOf s ⟨l.toNat, hl⟩ (s.inp.din0.extractLsb' 0 17)) →
    6 < c.regular.length →
    ∃ t, ∃ bitmap : Vector Byte 15, ∃ consumer, exec (.assemble l) s = .next t ∧ t.useFullKey = true ∧
      AtMostOneConsumer consumer ∧ t.batch = .fullKey c.modifier bitmap :: consumer ∧
      ∀ j < 120, (bitmap.toList.getD (j / 8) 0).getLsbD (j % 8) = decide (∃ x ∈ c.regular, x.toNat = j + 4)

/-- Exactly one primary report every cycle, whatever changed: before it at most the reset pulse, after it at most a
consumer report; with no key pressed it is the all-zero boot report. -/
def Obligations.OnePrimaryReportEveryCycle : Prop :=
  ∀ (l : BitVec 3) (s : State), l.toNat < 7 → s.fatal = false →
    ∃ t pre r post, exec (.assemble l) s = .next t ∧ t.batch = pre ++ r :: post ∧
      (pre = [] ∨ (s.useFullKey = true ∧ pre = [.fullKey 0 (Vector.replicate 15 0)])) ∧ r.isPrimary = true ∧
      AtMostOneConsumer post ∧
      (s.inp.din0.extractLsb' 0 17 = 0 → r = .keyboard 0 (Vector.replicate 6 0))

/-- The same modifier byte in both primary formats: whatever mode a cycle assembles, its primary report carries the
modifier of its keys (R211, which the spec derives). -/
def Obligations.PrimaryReportCarriesTheModifier : Prop :=
  ∀ (l : BitVec 3) (s : State) (hl : l.toNat < 7), s.fatal = false →
    ∃ t pre r post, exec (.assemble l) s = .next t ∧ t.batch = pre ++ r :: post ∧
      (pre = [] ∨ pre = [resetPulse]) ∧ AtMostOneConsumer post ∧
      ((∃ v, r = .keyboard (contributions s.cfg (codesOf s ⟨l.toNat, hl⟩ (s.inp.din0.extractLsb' 0 17))).modifier v) ∨
       (∃ v, r = .fullKey (contributions s.cfg (codesOf s ⟨l.toNat, hl⟩ (s.inp.din0.extractLsb' 0 17))).modifier v))

/-- The consumer state machine: its four cases (R207; times modulo 2^32 and strict: R208, D14; a release changes only
`active`: D15). -/
def Obligations.ConsumerStateMachineCases : Prop :=
  ∀ (crs : Crs) (u : Usage) (t : Word),
    (u ≠ 0 → (crs.active = false ∨ crs.key ≠ u) → consumerStep crs u t = (some (.consumer u), ⟨true, u, t, t⟩)) ∧
    (u ≠ 0 → crs.active = true → crs.key = u →
      (500 < (t - crs.pressStart).toNat ∧ 200 < (t - crs.lastRepeat).toNat →
        consumerStep crs u t = (some (.consumer u), { crs with lastRepeat := t })) ∧
      (¬ (500 < (t - crs.pressStart).toNat ∧ 200 < (t - crs.lastRepeat).toNat) →
        consumerStep crs u t = (none, crs))) ∧
    (u = 0 → crs.active = true → consumerStep crs u t = (some (.consumer 0), { crs with active := false })) ∧
    (u = 0 → crs.active = false → consumerStep crs u t = (none, crs))

/-- A wrap of NOW does not break the repeat: shifting every time by the same amount, modulo 2^32, changes no report
that ASSEMBLE builds (R208; D14). -/
def Obligations.RepeatIsUnmovedByShiftingTime : Prop :=
  ∀ (l : BitVec 3) (s : State) (d : Word),
    ∃ t t', exec (.assemble l) s = .next t ∧
      exec (.assemble l) { s with
        inp := { s.inp with now := s.inp.now + d }
        crs := { s.crs with
          pressStart := s.crs.pressStart + d
          lastRepeat := s.crs.lastRepeat + d } } = .next t' ∧
      t'.batch = t.batch ∧ t'.dout = t.dout ∧ t'.useFullKey = t.useFullKey ∧
      t'.crs = { t.crs with
        pressStart := t.crs.pressStart + d
        lastRepeat := t.crs.lastRepeat + d }

/-! ### Reports on the wire -/

/-- The Keyboard and FullKeyKeyboard payloads: seven bytes, modifier then the slots; sixteen bytes, modifier then the
bitmap, where usage `c` of 4..123 is bit `(c-4) mod 8` of bitmap byte `(c-4) div 8`. -/
def Obligations.KeyboardPayloadLayouts : Prop :=
  ∀ cfg : Config,
    (∀ m (v : Vector Byte 6), (wire cfg (.keyboard m v)).2 = m :: v.toList ∧
      (wire cfg (.keyboard m v)).2.length = 7) ∧
    (∀ m (v : Vector Byte 15), (wire cfg (.fullKey m v)).2 = m :: v.toList ∧
      (wire cfg (.fullKey m v)).2.length = 16) ∧
    (∀ m (c : Byte) (regular : List Byte), 4 ≤ c.toNat → c.toNat ≤ 123 →
      ((wire cfg (.fullKey m (bitmapOf regular))).2.getD (1 + (c.toNat - 4) / 8) 0).getLsbD ((c.toNat - 4) % 8) =
        decide (c ∈ regular))

/-- The wire format loses nothing, whatever the report ids are: reports with one payload are equal (R126 to R130;
byte order and ids: D16). -/
def Obligations.WirePayloadDeterminesTheReport : Prop :=
  ∀ (cfg : Config) (r r' : HidReport), (wire cfg r).2 = (wire cfg r').2 → r = r'

/-! ### Dispatch, link, switch, layer, registers -/

/-- DISPATCH while reports are enabled and the link is active: the batch is pushed in order, whatever does not fit in
ten entries is dropped with no status, DOUT bit or record (R233, R234; the push policy of R81 is derived; D18). -/
def Obligations.DispatchQueuesAndDropsSilently : Prop :=
  (∀ s : State, s.fatal = false → s.reportEnabled = true → s.link.suspended = false → s.queue.length ≤ 10 →
    exec .dispatch s = .next { s with
      queue := (s.queue ++ s.batch).take 10
      batch := []
      cycPress := false
      dout := 0
      status := 0x00 }) ∧
  FatalRejects .dispatch ∧ CommandWord 0x0B 0x00FFFFFF (fun _ => .dispatch)

/-- While the link is active each report of the batch is pushed, in order, and a push onto ten entries drops it with no
status, no DOUT bit and no record (R234). That the new report is the one dropped is R81, which the spec derives. -/
def Obligations.FullQueueDropsSilently : Prop :=
  ∀ s : State, s.fatal = false → s.reportEnabled = true → s.link.suspended = false →
    ∃ t, exec .dispatch s = .next t ∧
      t.queue = s.batch.foldl (fun q r => if q.length < 10 then q ++ [r] else q) s.queue ∧
      t.status = 0x00 ∧ t.dout = 0 ∧ t.trace = s.trace

/-- While suspended, with remote wakeup allowed and a press in the cycle, DISPATCH makes exactly one wakeup request
instead of queuing, however many reports the batch holds: the batch is dropped and DOUT is 1. -/
def Obligations.PressWhileSuspendedRequestsOneWakeup : Prop :=
  ∀ s : State, s.fatal = false → s.reportEnabled = true → s.link.suspended = true → s.link.rwa = true →
    s.cycPress = true →
    ∃ t new, exec .dispatch s = .next t ∧ t.trace = s.trace ++ new ∧ wakes new = 1 ∧ t.queue = s.queue ∧
      t.batch = [] ∧ t.dout = 1

/-- DISPATCH while suspended: with remote wakeup allowed and a press in the cycle, exactly one WAKE record, followed
by a LOG record if the answer is a failure, and DOUT = 1; otherwise no record and DOUT = 0. The batch is dropped in
both (R235, R236, R248; D18, D31). -/
def Obligations.DispatchWhileSuspended : Prop :=
  ∀ s : State, s.fatal = false → s.reportEnabled = true → s.link.suspended = true →
    (s.link.rwa = true ∧ s.cycPress = true →
      exec .dispatch s = .next { s with
        trace := s.trace ++ (if s.inp.wakeOk then [.wake] else [.wake, .log 0x02])
        batch := []
        cycPress := false
        dout := 1
        status := 0x00 }) ∧
    (¬ (s.link.rwa = true ∧ s.cycPress = true) →
      exec .dispatch s = .next { s with
        batch := []
        cycPress := false
        dout := 0
        status := 0x00 })

/-- DISPATCH while reports are disabled drains the queue, pushes nothing and asks for no wakeup (R237; D18, D19). -/
def Obligations.DispatchWhileDisabledDrains : Prop :=
  ∀ s : State, s.fatal = false → s.reportEnabled = false →
    exec .dispatch s = .next { s with
      queue := []
      batch := []
      cycPress := false
      dout := 0
      status := 0x00 }

/-- SUSPEND, whole: it writes the link and STATUS, and does not touch the queue. -/
def Obligations.SuspendWritesTheLink : Prop :=
  (∀ (b : Bool) (s : State), s.fatal = false →
    exec (.suspend b) s = .next { s with
      link := ⟨true, b⟩
      status := 0x00 }) ∧
  (∀ b, FatalRejects (.suspend b)) ∧ CommandWord 0x10 0x00FFFFFE (fun w => .suspend (w.getLsbD 0))

/-- RESUME, whole: the link is active and `rwa` keeps its value (R232; D21). -/
def Obligations.ResumeActivatesTheLink : Prop :=
  (∀ s : State, s.fatal = false →
    exec .resume s = .next { s with
      link := ⟨false, s.link.rwa⟩
      status := 0x00 }) ∧
  FatalRejects .resume ∧ CommandWord 0x11 0x00FFFFFF (fun _ => .resume)

/-- SETEN, whole: the switch takes B, and B = 0 drains the queue; the Sender's outstanding report is not recalled
(R238; D19). -/
def Obligations.SetenWritesTheSwitch : Prop :=
  (∀ (b : Bool) (s : State), s.fatal = false →
    exec (.seten b) s = .next { s with
      reportEnabled := b
      queue := if b then s.queue else []
      status := 0x00 }) ∧
  (∀ b, FatalRejects (.seten b)) ∧ CommandWord 0x0F 0x00FFFFFE (fun w => .seten (w.getLsbD 0))

/-- TXDONE, whole: the Sender is IDLE after it, and it has no other effect (R243; D20). -/
def Obligations.TxdoneEndsTheWait : Prop :=
  (∀ s : State, s.fatal = false →
    exec .txdone s = .next { s with
      sender := .idle
      status := 0x00 }) ∧
  FatalRejects .txdone ∧ CommandWord 0x12 0x00FFFFFF (fun _ => .txdone)

/-- SETLAYER, whole: the layer register takes LAYER, or RANGE (R246; D3, D29). -/
def Obligations.SetlayerSelectsTheLayer : Prop :=
  (∀ (l : BitVec 3) (s : State) (hl : l.toNat < 7), s.fatal = false →
    exec (.setlayer l) s = .next { s with
      layer := ⟨l.toNat, hl⟩
      status := 0x00 }) ∧
  (∀ s : State, s.fatal = false → exec (.setlayer 7) s = .next { s with status := 0x03 }) ∧
  (∀ l, FatalRejects (.setlayer l)) ∧ CommandWord 0x0E 0x001FFFFF (fun w => .setlayer (w.extractLsb' 21 3))

/-- RDREG, whole: the value of each assigned register, every field at its place and the other bits 0, STATUS as it
stood before; RANGE for an unassigned number (R34 to R44, R247; D23). The queue and the batch are within their
bounds, which `State.Inv` keeps. -/
def Obligations.RdregReadsTheRegister : Prop :=
  (∀ (n : BitVec 8) (s : State), n.toNat ≤ 10 → s.fatal = false → s.queue.length ≤ 10 → s.batch.length ≤ 3 →
    exec (.rdreg n) s = .next { s with
      dout := BitVec.ofNat 32 (csrNumber s n.toNat)
      status := 0x00 }) ∧
  (∀ (n : BitVec 8) (s : State), 10 < n.toNat → s.fatal = false →
    exec (.rdreg n) s = .next { s with status := 0x03 }) ∧
  (∀ n, FatalRejects (.rdreg n)) ∧ CommandWord 0x13 0x00FFFF00 (fun w => .rdreg (w.extractLsb' 0 8))

/-- While the link is suspended no report enters the queue: a command leaves the queue as it was or empties it
(R236; D18, and C8 of 90_conflicts.md). -/
def Obligations.NoReportEntersWhileSuspended : Prop :=
  ∀ (i : Instr) (s t : State), s.link.suspended = true → exec i s = .next t → t.queue = s.queue ∨ t.queue = []

/-! ### Scan -/

/-- SCAN, whole: two captures, the filter, DIFF's body on the filtered sample, ASSEMBLE's on the active layer,
DISPATCH's, then DOUT = press << 1 | wake (R270 to R275; D6, D29, D34, D35). The capture records are the model's own
(log 11), and so is their place before the others (log 24). The key-to-bit map is decision D5; that the pressed keys are
by key under every map is the model's reading (log 14): under the reference map they are R270's `curr[16:0]`. -/
def Obligations.ScanRunsTheFivePhases : Prop :=
  (∀ s : State, s.fatal = false →
    let curr := s.inp.raw1 ||| (s.inp.raw0 ^^^ s.inp.raw1)
    let p1 := { s with trace := s.trace ++ [.capture (clockedBits s.inp.raw0), .capture (clockedBits s.inp.raw1)] }
    let p4 := assembleStep (keyBits s.cfg curr) s.layer (diffStep curr p1)
    exec .scan s = .next { dispatchStep p4 with
      dout := BitVec.ofNat 32 (2 * p4.cycPress.toNat + p4.wakes.toNat)
      status := 0x00 }) ∧
  FatalRejects .scan ∧ CommandWord 0x0C 0x00FFFFFF (fun _ => .scan)

/-- A SCAN is one split cycle: DIFF on the filtered sample, ASSEMBLE on the active layer with the keys of that
sample, DISPATCH, issued one after the other, end in the state SCAN ends in, but for the sampled ports, the capture
records and DOUT, which holds DISPATCH's in bit 0 (R276, R278; D1, D26). The capture records and their place before
the others are the model's own (log 11, log 24). That ASSEMBLE's mask is the sample's keys by key under every map (D5)
is the model's reading (log 14): under the reference map it is R350's bits [16:0]. -/
def Obligations.ScanIsTheSplitCycle : Prop :=
  ∀ s : State, s.fatal = false →
    let curr := s.inp.raw0 ||| s.inp.raw1
    ∃ a b c, ∃ records : List Record, ∃ press : Bool,
      exec .diff { s with inp := { s.inp with din0 := curr.setWidth 32 } } = .next a ∧
      exec (.assemble (BitVec.ofNat 3 s.layer.val))
        { a with inp := { a.inp with din0 := (keyBits s.cfg curr).setWidth 32 } } = .next b ∧
      exec .dispatch b = .next c ∧ press = a.cycPress ∧ c.trace = s.trace ++ records ∧
      exec .scan s = .next { c with
        inp := s.inp
        trace := s.trace ++ [.capture (clockedBits s.inp.raw0), .capture (clockedBits s.inp.raw1)] ++ records
        dout := BitVec.ofNat 32 (2 * press.toNat) + c.dout }

/-- The first bit of a capture is bit 7 of byte 0 and the 24th is bit 0 of byte 2: MSB first in each byte, byte `i` at
bits `8i+7..8i` of the sample (R49, R77; D4), and the clocked bits determine the sample. -/
def Obligations.CapturesClockMsbFirst : Prop :=
  (∀ (x : Sample) (i n : Nat), i < 3 → n < 8 → (clockedBits x)[8 * i + n]? = some (x.getLsbD (8 * i + (7 - n)))) ∧
  (∀ x : Sample, (clockedBits x).length = 24) ∧ (∀ x y : Sample, clockedBits x = clockedBits y → x = y)

/-! ### The Sender -/

/-- POP with the link active: the head of the queue goes out on TX and the Sender waits from NOW. While it waits it
pops nothing: a turn of the Sender transmits nothing and takes nothing from the queue, whether or not it ends the wait
(when it does is `SenderTimesOutOrBlocks`). -/
def Obligations.PopTransmitsTheHead : Prop :=
  (∀ (s : State) (r : HidReport) (q : List HidReport) (t : Word) (ok : Bool), s.fatal = false → s.sender = .idle →
    s.queue = r :: q → s.link.suspended = false →
    runEvent (.sender t ok) s = .next { s with
      inp := { s.inp with
        now := t
        wakeOk := ok }
      trace := s.trace ++ [.tx (wire s.cfg r).1 (wire s.cfg r).2]
      queue := q
      sender := .wait t }) ∧
  (∀ (s : State) (since t : Word) (ok : Bool), s.sender = .wait since →
    ∃ u, runEvent (.sender t ok) s = .next u ∧ u.queue = s.queue ∧ txs u.trace = txs s.trace ∧
      (u.sender = .wait since ∨ u.sender = .idle))

/-- POP with the link suspended: one WAKE record whatever `rwa`, the popped report and the rest of the queue gone,
nothing transmitted, nothing else written. -/
def Obligations.PopWhileSuspendedDrains : Prop :=
  ∀ (s : State) (r : HidReport) (q : List HidReport) (t : Word) (ok : Bool), s.fatal = false → s.sender = .idle →
    s.queue = r :: q → s.link.suspended = true →
    ∃ new, runEvent (.sender t ok) s = .next { s with
        inp := { s.inp with
          now := t
          wakeOk := ok }
        trace := s.trace ++ new
        queue := [] } ∧
      wakes new = 1 ∧ txs new = [] ∧ evtLed new = []

/-- TIMEOUT after 100 ms, modulo 2^32, logged and not sent again; before that, and with an empty queue, no step is
enabled (R240, R244; D20). A turn with no enabled step, which changes nothing, is the model's own notion (log 13). -/
def Obligations.SenderTimesOutOrBlocks : Prop :=
  ∀ (s : State) (t : Word) (ok : Bool), s.fatal = false →
    (∀ since, s.sender = .wait since → 100 ≤ (t - since).toNat →
      runEvent (.sender t ok) s = .next { s with
        inp := { s.inp with
          now := t
          wakeOk := ok }
        trace := s.trace ++ [.log 0x01]
        sender := .idle }) ∧
    (∀ since, s.sender = .wait since → (t - since).toNat < 100 →
      runEvent (.sender t ok) s = .next { s with
        inp := { s.inp with
          now := t
          wakeOk := ok } }) ∧
    (s.sender = .idle → s.queue = [] →
      runEvent (.sender t ok) s = .next { s with
        inp := { s.inp with
          now := t
          wakeOk := ok } })

/-- Transmission is FIFO: on every step, what goes out on TX and then what stays in the queue is, in order, a part of
what stood in the queue and then what the event handed over (R88). At most one report goes out, only while none is
outstanding and the link is active, and then one is outstanding (R242, R245, which the spec derives; D20). -/
def Obligations.TransmissionIsFifo : Prop :=
  ∀ (s t : State) (e : Event), runEvent e s = .next t →
    ∃ sent : List HidReport,
      txs t.trace = txs s.trace ++ sent.map (wire s.cfg) ∧ (sent ++ t.queue).Sublist (s.queue ++ handedOver s e) ∧
      sent.length ≤ 1 ∧
      (sent ≠ [] → s.sender = .idle ∧ s.link.suspended = false ∧ ∃ now ok, e = .sender now ok ∧ t.sender = .wait now)

/-- The queue owns an entry until the Sender pops it or a drain removes it: on every step the queue keeps all its
entries, in order, and may gain some of what the event handed over, or the Sender took its head and transmits it, or a
drain emptied it (SETEN 0; DISPATCH or SCAN while disabled; a POP while suspended; a reset). -/
def Obligations.EntriesLeaveOnlyByPopOrDrain : Prop :=
  ∀ (s t : State) (e : Event), runEvent e s = .next t →
    (∃ more, t.queue = s.queue ++ more ∧ more.Sublist (handedOver s e)) ∨
    (∃ r now ok, e = .sender now ok ∧ s.queue = r :: t.queue ∧ t.sender = .wait now) ∨
    (t.queue = [] ∧
      match e with
      | .command w _ => decode w = .ok (.seten false) ∨
          ((decode w = .ok .dispatch ∨ decode w = .ok .scan) ∧ s.reportEnabled = false)
      | .sender _ _ => s.sender = .idle ∧ s.link.suspended = true
      | .reset _ => True)

/-- Records are only ever appended, and among those of one event at most one is a wakeup request: it is made only
while the link is suspended, and a failed one (the answer the event carries) adds its LOG record (R235, R241, R248;
D18, D31). -/
def Obligations.WakeupsOnlyWhileSuspended : Prop :=
  ∀ (s t : State) (e : Event), runEvent e s = .next t →
    ∃ new : List Record, t.trace = s.trace ++ new ∧
      (wakes new = 0 ∨
        (wakes new = 1 ∧ s.link.suspended = true ∧ logs new = if wakeAnswer e then [] else [0x02]))

/-- A turn of the Sender commutes with the assembly phases: DIFF or ASSEMBLE before it or after it ends alike, but for
how the records of different ports interleave; each port's own stream is the same (R276, R308; D26). -/
def Obligations.SenderCommutesWithDiffAndAssemble : Prop :=
  ∀ (i : Instr) (s a : State), (i = .diff ∨ ∃ l, i = .assemble l) → exec i s = .next a →
    ∃ c, exec i (senderStep s) = .next c ∧ c = { senderStep a with trace := c.trace } ∧
      evtLed c.trace = evtLed (senderStep a).trace ∧ txs c.trace = txs (senderStep a).trace ∧
      wakes c.trace = wakes (senderStep a).trace ∧ logs c.trace = logs (senderStep a).trace

/-! ### Ownership -/

/-- Single writer: `prev` changes only by DIFF and SCAN, `use_full_key` and `crs` only by ASSEMBLE and SCAN, among all
commands, and the Sender writes none of them. -/
def Obligations.SingleWriterOfTheScanState : Prop :=
  (∀ (i : Instr) (s t : State), exec i s = .next t →
    (i ≠ .diff → i ≠ .scan → t.prev = s.prev) ∧
    ((∀ l, i ≠ .assemble l) → i ≠ .scan → t.useFullKey = s.useFullKey ∧ t.crs = s.crs)) ∧
  (∀ s : State, (senderStep s).prev = s.prev ∧ (senderStep s).useFullKey = s.useFullKey ∧
    (senderStep s).crs = s.crs)

/-- The owners of the rest of the state: which commands may change each element, the DOUT port and the records (R30,
R33, R45, R50; D23, D35). STATUS is every command's (`StatusOfEveryWord`). -/
def Obligations.OnlyOwnersWriteTheRest : Prop :=
  ∀ (i : Instr) (s t : State), exec i s = .next t →
    (t.cfg = s.cfg ∧ t.pending = s.pending ∧ t.inp = s.inp ∧ t.fatal = s.fatal) ∧
    ((∀ b, i ≠ .suspend b) → i ≠ .resume → t.link = s.link) ∧
    ((∀ b, i ≠ .seten b) → t.reportEnabled = s.reportEnabled) ∧
    ((∀ l, i ≠ .setlayer l) → t.layer = s.layer) ∧
    ((∀ l k v, i ≠ .kmwrite l k v) → t.km = s.km) ∧
    (i ≠ .dispatch → i ≠ .scan → (∀ b, i ≠ .seten b) → t.queue = s.queue) ∧
    ((∀ l, i ≠ .assemble l) → i ≠ .dispatch → i ≠ .scan → t.batch = s.batch) ∧
    (i ≠ .diff → i ≠ .dispatch → i ≠ .scan → t.cycPress = s.cycPress ∧ t.trace = s.trace) ∧
    (i ≠ .txdone → t.sender = s.sender) ∧
    (((∃ l k v, i = .kmwrite l k v) ∨ (∃ l, i = .setlayer l) ∨ (∃ b, i = .seten b) ∨ (∃ b, i = .suspend b) ∨
      i = .resume ∨ i = .txdone) → t.dout = s.dout)

/-! ### Reset and the invariant -/

/-- A reset puts every element at its value, KM at the parameters' contents, `fatal` at NOT INIT_OK, and emits nothing
(R340 to R342; D21, D22, D24, D36; `prev` is the source's own). That it leaves the schedule, the sampled ports and the
configuration is the model's choice (log 25). `State.reset` is the state such a reset with INIT_OK = 1 leaves (log 6),
under the tables of log 5. -/
def Obligations.ResetSetsEveryElement : Prop :=
  (∀ (s t : State) (ok : Bool), runEvent (.reset ok) s = .next t →
    t.prev = 0 ∧ t.useFullKey = false ∧ t.crs = ⟨false, 0, 0, 0⟩ ∧ t.link = ⟨false, false⟩ ∧ t.reportEnabled = true ∧
    t.layer = 0 ∧ t.queue = [] ∧ t.batch = [] ∧ t.cycPress = false ∧ t.sender = .idle ∧ t.status = 0 ∧ t.dout = 0 ∧
    t.fatal = !ok ∧ t.trace = s.trace ∧ t.cfg = s.cfg ∧ t.pending = s.pending ∧ t.inp = s.inp ∧
    (∀ k : Fin 17, t.keymap 0 k = s.cfg.keymap0[k]) ∧
    (∀ (l : Fin 7) (k : Fin 17), l ≠ 0 → t.keymap l k = s.cfg.keymapInit.toList.getD (17 * (l.val - 1) + k.val) 0)) ∧
  runEvent (.reset true) State.reset = .next State.reset ∧ State.reset.trace = [] ∧ State.reset.pending = [] ∧
  State.reset.cfg.valid = true

/-- The invariant holds after reset: in the model's reset state (its OPEN tables and INIT_OK are the model's choice,
log 5, log 6), and after a reset of any state with a valid configuration. -/
def Obligations.ResetMeetsTheInvariant : Prop :=
  State.reset.Inv ∧ ∀ (s : State) (ok : Bool), s.cfg.valid = true → (s.applyReset ok).Inv

/-- Every step keeps the invariant: the keymap's storage stays canonical and holds nothing of layer 0, at most ten
reports wait, the batch is one cycle's, STATUS is a legal code, a running repeat has a usage, a press transition
leaves a pressed key, and a fatal block stays at its reset values (R72, R81, R209, R301, R304). -/
def Obligations.StepKeepsTheInvariant : Prop :=
  ∀ s t : State, s.Inv → step s = .next t → t.Inv

/-! ### What goes out on TX -/

/-- The bytes on TX and the id beside them, for each kind of report at the head of the queue: an idle Sender with the
link active sends one record, whose id is the kind's (R126, R130) and whose payload is the modifier and the slots, the
modifier and the bitmap, or two bytes of usage, low byte first (R127 to R129). The ids' numbers and the byte order are
decision D16, which takes the order from general knowledge (log 18). -/
def Obligations.TransmittedBytesOfEachKind : Prop :=
  (∀ (s : State) (r : HidReport) (q : List HidReport) (now : Word) (ok : Bool), s.fatal = false → s.sender = .idle →
    s.queue = r :: q → s.link.suspended = false →
    ∃ t id payload, runEvent (.sender now ok) s = .next t ∧ t.trace = s.trace ++ [.tx id payload] ∧
      match r with
      | .keyboard m slots => id = s.cfg.ridKeyboard ∧ payload = m :: slots.toList
      | .fullKey m bitmap => id = s.cfg.ridFullKey ∧ payload = m :: bitmap.toList
      | .consumer u => id = s.cfg.ridConsumer ∧ payload.length = 2 ∧
          ∀ i < 2, ∀ n < 8, (payload.getD i 0).getLsbD n = u.getLsbD (8 * i + n)) ∧
  (∀ r : HidReport, (wire Config.reference r).1 =
    match r with
    | .keyboard _ _ => 1
    | .fullKey _ _ => 2
    | .consumer _ => 3)
end

