-- ==== Sys2Proof/Laws/State.lean ====
section
/-! SUPPORT. One lemma per field for each named update of State, and for the bodies that write whole groups of
fields: what each leaves alone and what it writes. -/

namespace Sys2Proof.Machine

/-! ### `emit` -/

@[simp] theorem emit_cfg (rs : List Record) (s : State) : (s.emit rs).cfg = s.cfg := rfl
@[simp] theorem emit_pending (rs : List Record) (s : State) : (s.emit rs).pending = s.pending := rfl
@[simp] theorem emit_inp (rs : List Record) (s : State) : (s.emit rs).inp = s.inp := rfl
@[simp] theorem emit_trace (rs : List Record) (s : State) : (s.emit rs).trace = s.trace ++ rs := rfl
@[simp] theorem emit_prev (rs : List Record) (s : State) : (s.emit rs).prev = s.prev := rfl
@[simp] theorem emit_useFullKey (rs : List Record) (s : State) : (s.emit rs).useFullKey = s.useFullKey := rfl
@[simp] theorem emit_crs (rs : List Record) (s : State) : (s.emit rs).crs = s.crs := rfl
@[simp] theorem emit_link (rs : List Record) (s : State) : (s.emit rs).link = s.link := rfl
@[simp] theorem emit_reportEnabled (rs : List Record) (s : State) : (s.emit rs).reportEnabled = s.reportEnabled := rfl
@[simp] theorem emit_layer (rs : List Record) (s : State) : (s.emit rs).layer = s.layer := rfl
@[simp] theorem emit_km (rs : List Record) (s : State) : (s.emit rs).km = s.km := rfl
@[simp] theorem emit_queue (rs : List Record) (s : State) : (s.emit rs).queue = s.queue := rfl
@[simp] theorem emit_batch (rs : List Record) (s : State) : (s.emit rs).batch = s.batch := rfl
@[simp] theorem emit_cycPress (rs : List Record) (s : State) : (s.emit rs).cycPress = s.cycPress := rfl
@[simp] theorem emit_sender (rs : List Record) (s : State) : (s.emit rs).sender = s.sender := rfl
@[simp] theorem emit_status (rs : List Record) (s : State) : (s.emit rs).status = s.status := rfl
@[simp] theorem emit_fatal (rs : List Record) (s : State) : (s.emit rs).fatal = s.fatal := rfl
@[simp] theorem emit_dout (rs : List Record) (s : State) : (s.emit rs).dout = s.dout := rfl

/-! ### `setDout` -/

@[simp] theorem setDout_cfg (v : Word) (s : State) : (s.setDout v).cfg = s.cfg := rfl
@[simp] theorem setDout_pending (v : Word) (s : State) : (s.setDout v).pending = s.pending := rfl
@[simp] theorem setDout_inp (v : Word) (s : State) : (s.setDout v).inp = s.inp := rfl
@[simp] theorem setDout_trace (v : Word) (s : State) : (s.setDout v).trace = s.trace := rfl
@[simp] theorem setDout_prev (v : Word) (s : State) : (s.setDout v).prev = s.prev := rfl
@[simp] theorem setDout_useFullKey (v : Word) (s : State) : (s.setDout v).useFullKey = s.useFullKey := rfl
@[simp] theorem setDout_crs (v : Word) (s : State) : (s.setDout v).crs = s.crs := rfl
@[simp] theorem setDout_link (v : Word) (s : State) : (s.setDout v).link = s.link := rfl
@[simp] theorem setDout_reportEnabled (v : Word) (s : State) : (s.setDout v).reportEnabled = s.reportEnabled := rfl
@[simp] theorem setDout_layer (v : Word) (s : State) : (s.setDout v).layer = s.layer := rfl
@[simp] theorem setDout_km (v : Word) (s : State) : (s.setDout v).km = s.km := rfl
@[simp] theorem setDout_queue (v : Word) (s : State) : (s.setDout v).queue = s.queue := rfl
@[simp] theorem setDout_batch (v : Word) (s : State) : (s.setDout v).batch = s.batch := rfl
@[simp] theorem setDout_cycPress (v : Word) (s : State) : (s.setDout v).cycPress = s.cycPress := rfl
@[simp] theorem setDout_sender (v : Word) (s : State) : (s.setDout v).sender = s.sender := rfl
@[simp] theorem setDout_status (v : Word) (s : State) : (s.setDout v).status = s.status := rfl
@[simp] theorem setDout_fatal (v : Word) (s : State) : (s.setDout v).fatal = s.fatal := rfl
@[simp] theorem setDout_dout (v : Word) (s : State) : (s.setDout v).dout = v := rfl

/-! ### `setStatus` -/

@[simp] theorem setStatus_cfg (st : Status) (s : State) : (s.setStatus st).cfg = s.cfg := rfl
@[simp] theorem setStatus_pending (st : Status) (s : State) : (s.setStatus st).pending = s.pending := rfl
@[simp] theorem setStatus_inp (st : Status) (s : State) : (s.setStatus st).inp = s.inp := rfl
@[simp] theorem setStatus_trace (st : Status) (s : State) : (s.setStatus st).trace = s.trace := rfl
@[simp] theorem setStatus_prev (st : Status) (s : State) : (s.setStatus st).prev = s.prev := rfl
@[simp] theorem setStatus_useFullKey (st : Status) (s : State) : (s.setStatus st).useFullKey = s.useFullKey := rfl
@[simp] theorem setStatus_crs (st : Status) (s : State) : (s.setStatus st).crs = s.crs := rfl
@[simp] theorem setStatus_link (st : Status) (s : State) : (s.setStatus st).link = s.link := rfl
@[simp] theorem setStatus_reportEnabled (st : Status) (s : State) : (s.setStatus st).reportEnabled = s.reportEnabled := rfl
@[simp] theorem setStatus_layer (st : Status) (s : State) : (s.setStatus st).layer = s.layer := rfl
@[simp] theorem setStatus_km (st : Status) (s : State) : (s.setStatus st).km = s.km := rfl
@[simp] theorem setStatus_queue (st : Status) (s : State) : (s.setStatus st).queue = s.queue := rfl
@[simp] theorem setStatus_batch (st : Status) (s : State) : (s.setStatus st).batch = s.batch := rfl
@[simp] theorem setStatus_cycPress (st : Status) (s : State) : (s.setStatus st).cycPress = s.cycPress := rfl
@[simp] theorem setStatus_sender (st : Status) (s : State) : (s.setStatus st).sender = s.sender := rfl
@[simp] theorem setStatus_status (st : Status) (s : State) : (s.setStatus st).status = st.code := rfl
@[simp] theorem setStatus_fatal (st : Status) (s : State) : (s.setStatus st).fatal = s.fatal := rfl
@[simp] theorem setStatus_dout (st : Status) (s : State) : (s.setStatus st).dout = s.dout := rfl

/-! ### `drain` -/

@[simp] theorem drain_cfg (s : State) : (s.drain).cfg = s.cfg := rfl
@[simp] theorem drain_pending (s : State) : (s.drain).pending = s.pending := rfl
@[simp] theorem drain_inp (s : State) : (s.drain).inp = s.inp := rfl
@[simp] theorem drain_trace (s : State) : (s.drain).trace = s.trace := rfl
@[simp] theorem drain_prev (s : State) : (s.drain).prev = s.prev := rfl
@[simp] theorem drain_useFullKey (s : State) : (s.drain).useFullKey = s.useFullKey := rfl
@[simp] theorem drain_crs (s : State) : (s.drain).crs = s.crs := rfl
@[simp] theorem drain_link (s : State) : (s.drain).link = s.link := rfl
@[simp] theorem drain_reportEnabled (s : State) : (s.drain).reportEnabled = s.reportEnabled := rfl
@[simp] theorem drain_layer (s : State) : (s.drain).layer = s.layer := rfl
@[simp] theorem drain_km (s : State) : (s.drain).km = s.km := rfl
@[simp] theorem drain_queue (s : State) : (s.drain).queue = [] := rfl
@[simp] theorem drain_batch (s : State) : (s.drain).batch = s.batch := rfl
@[simp] theorem drain_cycPress (s : State) : (s.drain).cycPress = s.cycPress := rfl
@[simp] theorem drain_sender (s : State) : (s.drain).sender = s.sender := rfl
@[simp] theorem drain_status (s : State) : (s.drain).status = s.status := rfl
@[simp] theorem drain_fatal (s : State) : (s.drain).fatal = s.fatal := rfl
@[simp] theorem drain_dout (s : State) : (s.drain).dout = s.dout := rfl

/-! ### `writeKeymap` -/

@[simp] theorem writeKeymap_cfg (l : Fin totalLayers) (k : Fin numKeys) (v : KeyCode) (s : State) : (s.writeKeymap l k v).cfg = s.cfg := rfl
@[simp] theorem writeKeymap_pending (l : Fin totalLayers) (k : Fin numKeys) (v : KeyCode) (s : State) : (s.writeKeymap l k v).pending = s.pending := rfl
@[simp] theorem writeKeymap_inp (l : Fin totalLayers) (k : Fin numKeys) (v : KeyCode) (s : State) : (s.writeKeymap l k v).inp = s.inp := rfl
@[simp] theorem writeKeymap_trace (l : Fin totalLayers) (k : Fin numKeys) (v : KeyCode) (s : State) : (s.writeKeymap l k v).trace = s.trace := rfl
@[simp] theorem writeKeymap_prev (l : Fin totalLayers) (k : Fin numKeys) (v : KeyCode) (s : State) : (s.writeKeymap l k v).prev = s.prev := rfl
@[simp] theorem writeKeymap_useFullKey (l : Fin totalLayers) (k : Fin numKeys) (v : KeyCode) (s : State) : (s.writeKeymap l k v).useFullKey = s.useFullKey := rfl
@[simp] theorem writeKeymap_crs (l : Fin totalLayers) (k : Fin numKeys) (v : KeyCode) (s : State) : (s.writeKeymap l k v).crs = s.crs := rfl
@[simp] theorem writeKeymap_link (l : Fin totalLayers) (k : Fin numKeys) (v : KeyCode) (s : State) : (s.writeKeymap l k v).link = s.link := rfl
@[simp] theorem writeKeymap_reportEnabled (l : Fin totalLayers) (k : Fin numKeys) (v : KeyCode) (s : State) : (s.writeKeymap l k v).reportEnabled = s.reportEnabled := rfl
@[simp] theorem writeKeymap_layer (l : Fin totalLayers) (k : Fin numKeys) (v : KeyCode) (s : State) : (s.writeKeymap l k v).layer = s.layer := rfl
@[simp] theorem writeKeymap_km (l : Fin totalLayers) (k : Fin numKeys) (v : KeyCode) (s : State) : (s.writeKeymap l k v).km = s.km.write s.cfg (linearIndex l k) v := rfl
@[simp] theorem writeKeymap_queue (l : Fin totalLayers) (k : Fin numKeys) (v : KeyCode) (s : State) : (s.writeKeymap l k v).queue = s.queue := rfl
@[simp] theorem writeKeymap_batch (l : Fin totalLayers) (k : Fin numKeys) (v : KeyCode) (s : State) : (s.writeKeymap l k v).batch = s.batch := rfl
@[simp] theorem writeKeymap_cycPress (l : Fin totalLayers) (k : Fin numKeys) (v : KeyCode) (s : State) : (s.writeKeymap l k v).cycPress = s.cycPress := rfl
@[simp] theorem writeKeymap_sender (l : Fin totalLayers) (k : Fin numKeys) (v : KeyCode) (s : State) : (s.writeKeymap l k v).sender = s.sender := rfl
@[simp] theorem writeKeymap_status (l : Fin totalLayers) (k : Fin numKeys) (v : KeyCode) (s : State) : (s.writeKeymap l k v).status = s.status := rfl
@[simp] theorem writeKeymap_fatal (l : Fin totalLayers) (k : Fin numKeys) (v : KeyCode) (s : State) : (s.writeKeymap l k v).fatal = s.fatal := rfl
@[simp] theorem writeKeymap_dout (l : Fin totalLayers) (k : Fin numKeys) (v : KeyCode) (s : State) : (s.writeKeymap l k v).dout = s.dout := rfl

/-! ### `diffStep` -/

@[simp] theorem diffStep_cfg (curr : Sample) (s : State) : (diffStep curr s).cfg = s.cfg := rfl
@[simp] theorem diffStep_pending (curr : Sample) (s : State) : (diffStep curr s).pending = s.pending := rfl
@[simp] theorem diffStep_inp (curr : Sample) (s : State) : (diffStep curr s).inp = s.inp := rfl
@[simp] theorem diffStep_trace (curr : Sample) (s : State) : (diffStep curr s).trace = s.trace ++ diffRecords s.cfg s.prev curr := rfl
@[simp] theorem diffStep_prev (curr : Sample) (s : State) : (diffStep curr s).prev = curr := rfl
@[simp] theorem diffStep_useFullKey (curr : Sample) (s : State) : (diffStep curr s).useFullKey = s.useFullKey := rfl
@[simp] theorem diffStep_crs (curr : Sample) (s : State) : (diffStep curr s).crs = s.crs := rfl
@[simp] theorem diffStep_link (curr : Sample) (s : State) : (diffStep curr s).link = s.link := rfl
@[simp] theorem diffStep_reportEnabled (curr : Sample) (s : State) : (diffStep curr s).reportEnabled = s.reportEnabled := rfl
@[simp] theorem diffStep_layer (curr : Sample) (s : State) : (diffStep curr s).layer = s.layer := rfl
@[simp] theorem diffStep_km (curr : Sample) (s : State) : (diffStep curr s).km = s.km := rfl
@[simp] theorem diffStep_queue (curr : Sample) (s : State) : (diffStep curr s).queue = s.queue := rfl
@[simp] theorem diffStep_batch (curr : Sample) (s : State) : (diffStep curr s).batch = s.batch := rfl
@[simp] theorem diffStep_cycPress (curr : Sample) (s : State) : (diffStep curr s).cycPress = pressFlag (changedKeys s.cfg s.prev curr) (keyBits s.cfg curr) := rfl
@[simp] theorem diffStep_sender (curr : Sample) (s : State) : (diffStep curr s).sender = s.sender := rfl
@[simp] theorem diffStep_status (curr : Sample) (s : State) : (diffStep curr s).status = s.status := rfl
@[simp] theorem diffStep_fatal (curr : Sample) (s : State) : (diffStep curr s).fatal = s.fatal := rfl
@[simp] theorem diffStep_dout (curr : Sample) (s : State) : (diffStep curr s).dout = s.dout := rfl

/-! ### `assembleStep` -/

@[simp] theorem assembleStep_cfg (mask : KeyMask) (l : Fin totalLayers) (s : State) : (assembleStep mask l s).cfg = s.cfg := rfl
@[simp] theorem assembleStep_pending (mask : KeyMask) (l : Fin totalLayers) (s : State) : (assembleStep mask l s).pending = s.pending := rfl
@[simp] theorem assembleStep_inp (mask : KeyMask) (l : Fin totalLayers) (s : State) : (assembleStep mask l s).inp = s.inp := rfl
@[simp] theorem assembleStep_trace (mask : KeyMask) (l : Fin totalLayers) (s : State) : (assembleStep mask l s).trace = s.trace := rfl
@[simp] theorem assembleStep_prev (mask : KeyMask) (l : Fin totalLayers) (s : State) : (assembleStep mask l s).prev = s.prev := rfl
@[simp] theorem assembleStep_useFullKey (mask : KeyMask) (l : Fin totalLayers) (s : State) : (assembleStep mask l s).useFullKey =
      fullKeyFlag (contributions s.cfg (s.pressedCodes l mask)).regular := rfl
@[simp] theorem assembleStep_crs (mask : KeyMask) (l : Fin totalLayers) (s : State) : (assembleStep mask l s).crs =
      (consumerStep s.crs (contributions s.cfg (s.pressedCodes l mask)).cons s.inp.now).2 := rfl
@[simp] theorem assembleStep_link (mask : KeyMask) (l : Fin totalLayers) (s : State) : (assembleStep mask l s).link = s.link := rfl
@[simp] theorem assembleStep_reportEnabled (mask : KeyMask) (l : Fin totalLayers) (s : State) : (assembleStep mask l s).reportEnabled = s.reportEnabled := rfl
@[simp] theorem assembleStep_layer (mask : KeyMask) (l : Fin totalLayers) (s : State) : (assembleStep mask l s).layer = s.layer := rfl
@[simp] theorem assembleStep_km (mask : KeyMask) (l : Fin totalLayers) (s : State) : (assembleStep mask l s).km = s.km := rfl
@[simp] theorem assembleStep_queue (mask : KeyMask) (l : Fin totalLayers) (s : State) : (assembleStep mask l s).queue = s.queue := rfl
@[simp] theorem assembleStep_batch (mask : KeyMask) (l : Fin totalLayers) (s : State) : (assembleStep mask l s).batch =
      primaryReports s.useFullKey (contributions s.cfg (s.pressedCodes l mask)) ++
        (consumerStep s.crs (contributions s.cfg (s.pressedCodes l mask)).cons s.inp.now).1.toList := rfl
@[simp] theorem assembleStep_cycPress (mask : KeyMask) (l : Fin totalLayers) (s : State) : (assembleStep mask l s).cycPress = s.cycPress := rfl
@[simp] theorem assembleStep_sender (mask : KeyMask) (l : Fin totalLayers) (s : State) : (assembleStep mask l s).sender = s.sender := rfl
@[simp] theorem assembleStep_status (mask : KeyMask) (l : Fin totalLayers) (s : State) : (assembleStep mask l s).status = s.status := rfl
@[simp] theorem assembleStep_fatal (mask : KeyMask) (l : Fin totalLayers) (s : State) : (assembleStep mask l s).fatal = s.fatal := rfl
@[simp] theorem assembleStep_dout (mask : KeyMask) (l : Fin totalLayers) (s : State) : (assembleStep mask l s).dout = s.dout := rfl

/-! ### `captureStep` -/

@[simp] theorem captureStep_cfg (s : State) : (captureStep s).cfg = s.cfg := rfl
@[simp] theorem captureStep_pending (s : State) : (captureStep s).pending = s.pending := rfl
@[simp] theorem captureStep_inp (s : State) : (captureStep s).inp = s.inp := rfl
@[simp] theorem captureStep_trace (s : State) : (captureStep s).trace =
      s.trace ++ [.capture (clockedBits s.inp.raw0), .capture (clockedBits s.inp.raw1)] := rfl
@[simp] theorem captureStep_prev (s : State) : (captureStep s).prev = s.prev := rfl
@[simp] theorem captureStep_useFullKey (s : State) : (captureStep s).useFullKey = s.useFullKey := rfl
@[simp] theorem captureStep_crs (s : State) : (captureStep s).crs = s.crs := rfl
@[simp] theorem captureStep_link (s : State) : (captureStep s).link = s.link := rfl
@[simp] theorem captureStep_reportEnabled (s : State) : (captureStep s).reportEnabled = s.reportEnabled := rfl
@[simp] theorem captureStep_layer (s : State) : (captureStep s).layer = s.layer := rfl
@[simp] theorem captureStep_km (s : State) : (captureStep s).km = s.km := rfl
@[simp] theorem captureStep_queue (s : State) : (captureStep s).queue = s.queue := rfl
@[simp] theorem captureStep_batch (s : State) : (captureStep s).batch = s.batch := rfl
@[simp] theorem captureStep_cycPress (s : State) : (captureStep s).cycPress = s.cycPress := rfl
@[simp] theorem captureStep_sender (s : State) : (captureStep s).sender = s.sender := rfl
@[simp] theorem captureStep_status (s : State) : (captureStep s).status = s.status := rfl
@[simp] theorem captureStep_fatal (s : State) : (captureStep s).fatal = s.fatal := rfl
@[simp] theorem captureStep_dout (s : State) : (captureStep s).dout = s.dout := rfl

/-! ### `scanAssemble` -/

@[simp] theorem scanAssemble_cfg (s : State) : (scanAssemble s).cfg = s.cfg := rfl
@[simp] theorem scanAssemble_pending (s : State) : (scanAssemble s).pending = s.pending := rfl
@[simp] theorem scanAssemble_inp (s : State) : (scanAssemble s).inp = s.inp := rfl
@[simp] theorem scanAssemble_trace (s : State) : (scanAssemble s).trace =
      s.trace ++ [.capture (clockedBits s.inp.raw0), .capture (clockedBits s.inp.raw1)] ++
        diffRecords s.cfg s.prev (scanSample s) := rfl
@[simp] theorem scanAssemble_prev (s : State) : (scanAssemble s).prev = scanSample s := rfl
@[simp] theorem scanAssemble_useFullKey (s : State) : (scanAssemble s).useFullKey =
      fullKeyFlag (contributions s.cfg (s.pressedCodes s.layer (keyBits s.cfg (scanSample s)))).regular := rfl
@[simp] theorem scanAssemble_crs (s : State) : (scanAssemble s).crs =
      (consumerStep s.crs (contributions s.cfg (s.pressedCodes s.layer (keyBits s.cfg (scanSample s)))).cons
        s.inp.now).2 := rfl
@[simp] theorem scanAssemble_link (s : State) : (scanAssemble s).link = s.link := rfl
@[simp] theorem scanAssemble_reportEnabled (s : State) : (scanAssemble s).reportEnabled = s.reportEnabled := rfl
@[simp] theorem scanAssemble_layer (s : State) : (scanAssemble s).layer = s.layer := rfl
@[simp] theorem scanAssemble_km (s : State) : (scanAssemble s).km = s.km := rfl
@[simp] theorem scanAssemble_queue (s : State) : (scanAssemble s).queue = s.queue := rfl
@[simp] theorem scanAssemble_batch (s : State) : (scanAssemble s).batch =
      primaryReports s.useFullKey
          (contributions s.cfg (s.pressedCodes s.layer (keyBits s.cfg (scanSample s)))) ++
        (consumerStep s.crs (contributions s.cfg (s.pressedCodes s.layer (keyBits s.cfg (scanSample s)))).cons
          s.inp.now).1.toList := rfl
@[simp] theorem scanAssemble_cycPress (s : State) : (scanAssemble s).cycPress =
      pressFlag (changedKeys s.cfg s.prev (scanSample s)) (keyBits s.cfg (scanSample s)) := rfl
@[simp] theorem scanAssemble_sender (s : State) : (scanAssemble s).sender = s.sender := rfl
@[simp] theorem scanAssemble_status (s : State) : (scanAssemble s).status = s.status := rfl
@[simp] theorem scanAssemble_fatal (s : State) : (scanAssemble s).fatal = s.fatal := rfl
@[simp] theorem scanAssemble_dout (s : State) : (scanAssemble s).dout = s.dout := rfl

/-! ### `senderTimeout` -/

@[simp] theorem senderTimeout_cfg (s : State) : (senderTimeout s).cfg = s.cfg := rfl
@[simp] theorem senderTimeout_pending (s : State) : (senderTimeout s).pending = s.pending := rfl
@[simp] theorem senderTimeout_inp (s : State) : (senderTimeout s).inp = s.inp := rfl
@[simp] theorem senderTimeout_trace (s : State) : (senderTimeout s).trace = s.trace ++ [.log logTxTimeout] := rfl
@[simp] theorem senderTimeout_prev (s : State) : (senderTimeout s).prev = s.prev := rfl
@[simp] theorem senderTimeout_useFullKey (s : State) : (senderTimeout s).useFullKey = s.useFullKey := rfl
@[simp] theorem senderTimeout_crs (s : State) : (senderTimeout s).crs = s.crs := rfl
@[simp] theorem senderTimeout_link (s : State) : (senderTimeout s).link = s.link := rfl
@[simp] theorem senderTimeout_reportEnabled (s : State) : (senderTimeout s).reportEnabled = s.reportEnabled := rfl
@[simp] theorem senderTimeout_layer (s : State) : (senderTimeout s).layer = s.layer := rfl
@[simp] theorem senderTimeout_km (s : State) : (senderTimeout s).km = s.km := rfl
@[simp] theorem senderTimeout_queue (s : State) : (senderTimeout s).queue = s.queue := rfl
@[simp] theorem senderTimeout_batch (s : State) : (senderTimeout s).batch = s.batch := rfl
@[simp] theorem senderTimeout_cycPress (s : State) : (senderTimeout s).cycPress = s.cycPress := rfl
@[simp] theorem senderTimeout_sender (s : State) : (senderTimeout s).sender = .idle := rfl
@[simp] theorem senderTimeout_status (s : State) : (senderTimeout s).status = s.status := rfl
@[simp] theorem senderTimeout_fatal (s : State) : (senderTimeout s).fatal = s.fatal := rfl
@[simp] theorem senderTimeout_dout (s : State) : (senderTimeout s).dout = s.dout := rfl

/-! ### `applyReset` -/

@[simp] theorem applyReset_cfg (initOk : Bool) (s : State) : (s.applyReset initOk).cfg = s.cfg := rfl
@[simp] theorem applyReset_pending (initOk : Bool) (s : State) : (s.applyReset initOk).pending = s.pending := rfl
@[simp] theorem applyReset_inp (initOk : Bool) (s : State) : (s.applyReset initOk).inp = s.inp := rfl
@[simp] theorem applyReset_trace (initOk : Bool) (s : State) : (s.applyReset initOk).trace = s.trace := rfl
@[simp] theorem applyReset_prev (initOk : Bool) (s : State) : (s.applyReset initOk).prev = 0 := rfl
@[simp] theorem applyReset_useFullKey (initOk : Bool) (s : State) : (s.applyReset initOk).useFullKey = false := rfl
@[simp] theorem applyReset_crs (initOk : Bool) (s : State) : (s.applyReset initOk).crs = State.reset.crs := rfl
@[simp] theorem applyReset_link (initOk : Bool) (s : State) : (s.applyReset initOk).link = State.reset.link := rfl
@[simp] theorem applyReset_reportEnabled (initOk : Bool) (s : State) : (s.applyReset initOk).reportEnabled = true := rfl
@[simp] theorem applyReset_layer (initOk : Bool) (s : State) : (s.applyReset initOk).layer = 0 := rfl
@[simp] theorem applyReset_km (initOk : Bool) (s : State) : (s.applyReset initOk).km = [] := rfl
@[simp] theorem applyReset_queue (initOk : Bool) (s : State) : (s.applyReset initOk).queue = [] := rfl
@[simp] theorem applyReset_batch (initOk : Bool) (s : State) : (s.applyReset initOk).batch = [] := rfl
@[simp] theorem applyReset_cycPress (initOk : Bool) (s : State) : (s.applyReset initOk).cycPress = false := rfl
@[simp] theorem applyReset_sender (initOk : Bool) (s : State) : (s.applyReset initOk).sender = .idle := rfl
@[simp] theorem applyReset_status (initOk : Bool) (s : State) : (s.applyReset initOk).status = 0 := rfl
@[simp] theorem applyReset_fatal (initOk : Bool) (s : State) : (s.applyReset initOk).fatal = !initOk := rfl
@[simp] theorem applyReset_dout (initOk : Bool) (s : State) : (s.applyReset initOk).dout = 0 := rfl

/-! ### `dispatchStep` -/

/-- The whole body of DISPATCH as one update (R233 to R237). -/
theorem dispatchStep_eq (s : State) : dispatchStep s = { s with
    trace := s.trace ++ if s.wakes then wakeRecords s.inp.wakeOk else []
    queue := if !s.reportEnabled then [] else if s.link.suspended then s.queue else pushAll s.queue s.batch
    batch := []
    cycPress := false } := by
  unfold dispatchStep State.wakes State.emit State.drain
  cases h1 : s.reportEnabled <;> cases s.link.suspended <;> cases s.link.rwa <;> cases s.cycPress <;> simp [h1]

@[simp] theorem dispatchStep_cfg (s : State) : (dispatchStep s).cfg = s.cfg := by
  unfold dispatchStep; split <;> [skip; split <;> [split; skip]] <;> simp [*]
@[simp] theorem dispatchStep_pending (s : State) : (dispatchStep s).pending = s.pending := by
  unfold dispatchStep; split <;> [skip; split <;> [split; skip]] <;> simp [*]
@[simp] theorem dispatchStep_inp (s : State) : (dispatchStep s).inp = s.inp := by
  unfold dispatchStep; split <;> [skip; split <;> [split; skip]] <;> simp [*]
@[simp] theorem dispatchStep_trace (s : State) : (dispatchStep s).trace =
      s.trace ++ if s.wakes then wakeRecords s.inp.wakeOk else [] := by
  unfold dispatchStep State.wakes
  cases s.reportEnabled <;> cases s.link.suspended <;> cases s.link.rwa <;> cases s.cycPress <;> simp
@[simp] theorem dispatchStep_prev (s : State) : (dispatchStep s).prev = s.prev := by
  unfold dispatchStep; split <;> [skip; split <;> [split; skip]] <;> simp [*]
@[simp] theorem dispatchStep_useFullKey (s : State) : (dispatchStep s).useFullKey = s.useFullKey := by
  unfold dispatchStep; split <;> [skip; split <;> [split; skip]] <;> simp [*]
@[simp] theorem dispatchStep_crs (s : State) : (dispatchStep s).crs = s.crs := by
  unfold dispatchStep; split <;> [skip; split <;> [split; skip]] <;> simp [*]
@[simp] theorem dispatchStep_link (s : State) : (dispatchStep s).link = s.link := by
  unfold dispatchStep; split <;> [skip; split <;> [split; skip]] <;> simp [*]
@[simp] theorem dispatchStep_reportEnabled (s : State) : (dispatchStep s).reportEnabled = s.reportEnabled := by
  unfold dispatchStep; split <;> [skip; split <;> [split; skip]] <;> simp [*]
@[simp] theorem dispatchStep_layer (s : State) : (dispatchStep s).layer = s.layer := by
  unfold dispatchStep; split <;> [skip; split <;> [split; skip]] <;> simp [*]
@[simp] theorem dispatchStep_km (s : State) : (dispatchStep s).km = s.km := by
  unfold dispatchStep; split <;> [skip; split <;> [split; skip]] <;> simp [*]
@[simp] theorem dispatchStep_queue (s : State) : (dispatchStep s).queue =
      if !s.reportEnabled then [] else if s.link.suspended then s.queue else pushAll s.queue s.batch := by
  unfold dispatchStep; split <;> [skip; split <;> [split; skip]] <;> simp [*]
@[simp] theorem dispatchStep_batch (s : State) : (dispatchStep s).batch = [] := rfl
@[simp] theorem dispatchStep_cycPress (s : State) : (dispatchStep s).cycPress = false := rfl
@[simp] theorem dispatchStep_sender (s : State) : (dispatchStep s).sender = s.sender := by
  unfold dispatchStep; split <;> [skip; split <;> [split; skip]] <;> simp [*]
@[simp] theorem dispatchStep_status (s : State) : (dispatchStep s).status = s.status := by
  unfold dispatchStep; split <;> [skip; split <;> [split; skip]] <;> simp [*]
@[simp] theorem dispatchStep_fatal (s : State) : (dispatchStep s).fatal = s.fatal := by
  unfold dispatchStep; split <;> [skip; split <;> [split; skip]] <;> simp [*]
@[simp] theorem dispatchStep_dout (s : State) : (dispatchStep s).dout = s.dout := by
  unfold dispatchStep; split <;> [skip; split <;> [split; skip]] <;> simp [*]

end Sys2Proof.Machine
end

