-- ==== Sys2Proof/Laws/Assembler.lean ====
section
/-! SUPPORT. Everything the consumer state machine can do (spec 43_assembler.md R207) and the shape of a batch
(R209). -/

namespace Sys2Proof.Machine

theorem newConsumerPress_iff (crs : Crs) (u : Usage) :
    newConsumerPress crs u = true ↔ u ≠ 0 ∧ (crs.active = false ∨ crs.key ≠ u) := by
  simp [newConsumerPress]

/-- The four cases of R207: new press, repeat due or not, release, idle. -/
theorem consumerStep_cases (crs : Crs) (u : Usage) (t : Word) :
    ((u ≠ 0 ∧ (crs.active = false ∨ crs.key ≠ u)) ∧ consumerStep crs u t = (some (.consumer u), ⟨true, u, t, t⟩)) ∨
    ((u ≠ 0 ∧ crs.active = true ∧ crs.key = u) ∧ repeatDue crs t = true ∧
      consumerStep crs u t = (some (.consumer u), { crs with lastRepeat := t })) ∨
    ((u ≠ 0 ∧ crs.active = true ∧ crs.key = u) ∧ repeatDue crs t = false ∧ consumerStep crs u t = (none, crs)) ∨
    ((u = 0 ∧ crs.active = true) ∧ consumerStep crs u t = (some (.consumer 0), { crs with active := false })) ∨
    ((u = 0 ∧ crs.active = false) ∧ consumerStep crs u t = (none, crs)) := by
  by_cases hn : newConsumerPress crs u = true
  · exact .inl ⟨(newConsumerPress_iff _ _).1 hn, by simp [consumerStep, hn]⟩
  · have hn' := hn
    rw [newConsumerPress_iff] at hn'
    by_cases hu : u = 0
    · subst hu
      have h0 : newConsumerPress crs 0#16 = false := by simp [newConsumerPress]
      cases ha : crs.active <;> simp [consumerStep, h0, ha]
    · have hk : crs.active = true ∧ crs.key = u := by
        simp only [not_and_or, not_or, Bool.not_eq_false, ne_eq, not_not] at hn'
        rcases hn' with h | h
        · exact absurd h hu
        · exact h
      have hu' : ¬ u = 0#16 := hu
      cases hd : repeatDue crs t <;> simp [consumerStep, hn, hu', hd, hk]

/-- A consumer step emits nothing or one consumer report. -/
theorem consumerStep_report (crs : Crs) (u : Usage) (t : Word) :
    (consumerStep crs u t).1 = none ∨ ∃ v, (consumerStep crs u t).1 = some (.consumer v) := by
  rcases consumerStep_cases crs u t with ⟨-, h⟩ | ⟨-, -, h⟩ | ⟨-, -, h⟩ | ⟨-, h⟩ | ⟨-, h⟩ <;> simp [h]

/-- A running repeat always has a usage (R207). -/
theorem consumerStep_key {crs : Crs} (u : Usage) (t : Word) (h : crs.active = true → crs.key ≠ 0) :
    (consumerStep crs u t).2.active = true → (consumerStep crs u t).2.key ≠ 0 := by
  rcases consumerStep_cases crs u t with ⟨hc, h'⟩ | ⟨-, -, h'⟩ | ⟨-, -, h'⟩ | ⟨-, h'⟩ | ⟨-, h'⟩ <;> simp_all

/-- The primary reports of a cycle: the pulse if any, then one primary report (R203 to R206). -/
theorem primaryReports_cases (full : Bool) (c : Contribution) :
    ∃ r : HidReport, r.isPrimary = true ∧ (primaryReports full c = [r] ∨ primaryReports full c = [resetPulse, r]) := by
  unfold primaryReports
  split
  · exact ⟨_, rfl, .inl rfl⟩
  · cases full
    · exact ⟨_, rfl, .inl rfl⟩
    · exact ⟨_, rfl, .inr rfl⟩

/-- The batch one ASSEMBLE builds has the shape of R209. -/
theorem assembleStep_batchShape (mask : KeyMask) (l : Fin totalLayers) (s : State) :
    BatchShape (assembleStep mask l s).batch := by
  rw [assembleStep_batch]
  obtain ⟨r, hr, h | h⟩ := primaryReports_cases s.useFullKey (contributions s.cfg (s.pressedCodes l mask)) <;>
    rcases consumerStep_report s.crs (contributions s.cfg (s.pressedCodes l mask)).cons s.inp.now with hc | ⟨v, hc⟩ <;>
    rw [h, hc]
  · exact .primary r hr
  · exact .consumer r hr v
  · exact .pulse r hr
  · exact .pulseConsumer r hr v

theorem BatchShape.length_le {rs : List HidReport} (h : BatchShape rs) : rs.length ≤ 3 := by
  cases h <;> simp

/-- The assembler sees the keys of its mask and nothing else of the sample (R155). -/
theorem pressedCodes_eq (s : State) (l : Fin totalLayers) (mask : KeyMask) :
    s.pressedCodes l mask = ((List.finRange numKeys).filter fun k => mask.getLsbD k.val).map fun k => s.keymap l k :=
  rfl

end Sys2Proof.Machine
end

