-- ==== Sys2Proof/Laws/Command.lean ====
section
/-! SUPPORT. What running a command can do: rejected with a status and nothing else, or its effect with STATUS = OK;
and what each operand check answers. -/

namespace Sys2Proof.Machine

theorem runChecked_fatal {α : Type} (chk : Except Status α) (body : α → State → State) {s : State}
    (h : s.fatal = true) : runChecked chk body s = .next (s.setStatus .fatal) := by
  simp [runChecked, h]

theorem runChecked_error {α : Type} {st : Status} (body : α → State → State) {s : State}
    (h : s.fatal = false) : runChecked (.error st) body s = .next (s.setStatus st) := by
  simp [runChecked, h]

theorem runChecked_ok {α : Type} (a : α) (body : α → State → State) {s : State} (h : s.fatal = false) :
    runChecked (.ok a) body s = .next ((body a s).setStatus .ok) := by
  simp [runChecked, h]

theorem runPlain_ok (body : State → State) {s : State} (h : s.fatal = false) :
    runPlain body s = .next ((body s).setStatus .ok) := runChecked_ok () _ h

theorem runPlain_fatal (body : State → State) {s : State} (h : s.fatal = true) :
    runPlain body s = .next (s.setStatus .fatal) := runChecked_fatal _ _ h

/-- Everything `runChecked` can do. -/
theorem runChecked_next {α : Type} {chk : Except Status α} {body : α → State → State} {s t : State}
    (h : runChecked chk body s = .next t) :
    (s.fatal = true ∧ t = s.setStatus .fatal) ∨
    (s.fatal = false ∧ ∃ st, chk = .error st ∧ t = s.setStatus st) ∨
    (s.fatal = false ∧ ∃ a, chk = .ok a ∧ t = (body a s).setStatus .ok) := by
  cases hf : s.fatal with
  | true =>
    rw [runChecked_fatal chk body hf] at h
    injection h with h
    exact .inl ⟨rfl, h.symm⟩
  | false =>
    cases chk with
    | error st =>
      rw [runChecked_error body hf] at h
      injection h with h
      exact .inr (.inl ⟨rfl, st, rfl, h.symm⟩)
    | ok a =>
      rw [runChecked_ok a body hf] at h
      injection h with h
      exact .inr (.inr ⟨rfl, a, rfl, h.symm⟩)

/-- Everything `runPlain` can do. -/
theorem runPlain_next {body : State → State} {s t : State} (h : runPlain body s = .next t) :
    (s.fatal = true ∧ t = s.setStatus .fatal) ∨ (s.fatal = false ∧ t = (body s).setStatus .ok) := by
  rcases runChecked_next h with h | ⟨-, _, h, -⟩ | ⟨hf, _, -, h⟩
  · exact .inl h
  · cases h
  · exact .inr ⟨hf, h⟩

/-! ### The operand checks (R109) -/

theorem asLayer_ok {layer : BitVec 3} (h : layer.toNat < 7) : asLayer layer = .ok ⟨layer.toNat, h⟩ := by
  simp [asLayer, h]

theorem asLayer_range {layer : BitVec 3} (h : ¬ layer.toNat < 7) : asLayer layer = .error .range := by
  rw [asLayer, dif_neg h]

theorem asKey_ok {key : BitVec 5} (h : key.toNat < 17) : asKey key = .ok ⟨key.toNat, h⟩ := by
  simp [asKey, h]

theorem asKey_range {key : BitVec 5} (h : ¬ key.toNat < 17) : asKey key = .error .range := by
  rw [asKey, dif_neg h]

theorem asEntry_ok {layer : BitVec 3} {key : BitVec 5} (hl : layer.toNat < 7) (hk : key.toNat < 17) :
    asEntry layer key = .ok (⟨layer.toNat, hl⟩, ⟨key.toNat, hk⟩) := by
  simp [asEntry, asLayer_ok hl, asKey_ok hk]

theorem asEntry_range {layer : BitVec 3} {key : BitVec 5} (h : ¬ (layer.toNat < 7 ∧ key.toNat < 17)) :
    asEntry layer key = .error .range := by
  by_cases hl : layer.toNat < 7
  · have hk : ¬ key.toNat < 17 := fun hk => h ⟨hl, hk⟩
    simp [asEntry, asLayer_ok hl, asKey_range hk]
  · simp [asEntry, asLayer_range hl]

theorem asWritableEntry_ok {layer : BitVec 3} {key : BitVec 5} (h0 : layer.toNat ≠ 0) (hl : layer.toNat < 7)
    (hk : key.toNat < 17) :
    asWritableEntry layer key = .ok (⟨layer.toNat, hl⟩, ⟨key.toNat, hk⟩) := by
  simp [asWritableEntry, asEntry_ok hl hk, h0]

theorem asWritableEntry_readonly {layer : BitVec 3} {key : BitVec 5} (h0 : layer.toNat = 0)
    (hk : key.toNat < 17) : asWritableEntry layer key = .error .readonly := by
  have hl : layer.toNat < 7 := by omega
  simp [asWritableEntry, asEntry_ok hl hk, h0]

theorem asWritableEntry_range {layer : BitVec 3} {key : BitVec 5} (h : ¬ (layer.toNat < 7 ∧ key.toNat < 17)) :
    asWritableEntry layer key = .error .range := by
  simp [asWritableEntry, asEntry_range h]

/-- A keymap write never names layer 0. -/
theorem asWritableEntry_ne_zero {layer : BitVec 3} {key : BitVec 5} {e : Fin totalLayers × Fin numKeys}
    (h : asWritableEntry layer key = .ok e) : e.1 ≠ 0 := by
  unfold asWritableEntry at h
  split at h
  · cases h
  · split at h
    · cases h
    · injection h with h
      subst h
      assumption

/-- No operand check answers OK as an error. -/
theorem asLayer_error_ne_ok {layer : BitVec 3} {st : Status} (h : asLayer layer = .error st) : st ≠ .ok := by
  unfold asLayer at h
  split at h <;> simp_all
  subst h
  simp

theorem asEntry_error_ne_ok {layer : BitVec 3} {key : BitVec 5} {st : Status}
    (h : asEntry layer key = .error st) : st ≠ .ok := by
  by_cases hc : layer.toNat < 7 ∧ key.toNat < 17
  · simp [asEntry_ok hc.1 hc.2] at h
  · rw [asEntry_range hc] at h
    injection h with h
    simp [← h]

theorem asWritableEntry_error_ne_ok {layer : BitVec 3} {key : BitVec 5} {st : Status}
    (h : asWritableEntry layer key = .error st) : st ≠ .ok := by
  by_cases hc : layer.toNat < 7 ∧ key.toNat < 17
  · by_cases h0 : layer.toNat = 0
    · rw [asWritableEntry_readonly h0 hc.2] at h
      injection h with h
      simp [← h]
    · simp [asWritableEntry_ok h0 hc.1 hc.2] at h
  · rw [asWritableEntry_range hc] at h
    injection h with h
    simp [← h]

/-- An assigned register number names a register (R34). -/
theorem asCsr_ok {reg : BitVec 8} (h : reg.toNat ≤ 0x0A) : ∃ r, asCsr reg = .ok r := by
  unfold asCsr
  interval_cases reg.toNat <;> exact ⟨_, rfl⟩

/-- An unassigned register number is RANGE (R34, R109). -/
theorem asCsr_range {reg : BitVec 8} (h : 0x0A < reg.toNat) : asCsr reg = .error .range := by
  unfold asCsr
  split <;> first | rfl | omega

theorem asCsr_error_ne_ok {reg : BitVec 8} {st : Status} (h : asCsr reg = .error st) : st ≠ .ok := by
  unfold asCsr at h
  split at h <;> cases h
  simp

theorem Status.code_ne_zero {st : Status} (h : st ≠ .ok) : st.code ≠ 0 := by
  cases st <;> simp_all [Status.code]

theorem Status.code_le (st : Status) : st.code.toNat ≤ 5 := by cases st <;> decide

end Sys2Proof.Machine
end

