-- ==== Sys2Proof/Laws/Encoding.lean ====
section
/-! SUPPORT. The fields of a word as numbers, and the reserved bits as a mask (spec 30_encoding.md R100 to R108). -/

namespace Sys2Proof

theorem opcField_toNat (w : Word) : (opcField w).toNat = w.toNat / 2 ^ 24 := by
  have := w.isLt
  simp only [opcField, BitVec.extractLsb'_toNat, Nat.shiftRight_eq_div_pow]
  omega

theorem layerField_toNat (w : Word) : (layerField w).toNat = w.toNat / 2 ^ 21 % 8 := by
  simp [layerField, BitVec.extractLsb'_toNat, Nat.shiftRight_eq_div_pow]

theorem keyField_toNat (w : Word) : (keyField w).toNat = w.toNat / 2 ^ 16 % 32 := by
  simp [keyField, BitVec.extractLsb'_toNat, Nat.shiftRight_eq_div_pow]

theorem codeField_toNat (w : Word) : (codeField w).toNat = w.toNat % 2 ^ 16 := by
  simp [codeField]

theorem modsField_toNat (w : Word) : (modsField w).toNat = w.toNat / 2 ^ 8 % 16 := by
  simp [modsField, BitVec.extractLsb'_toNat, Nat.shiftRight_eq_div_pow]

theorem baseField_toNat (w : Word) : (baseField w).toNat = w.toNat % 2 ^ 8 := by
  simp [baseField]

theorem regField_toNat (w : Word) : (regField w).toNat = w.toNat % 2 ^ 8 := by
  simp [regField]

theorem bField_eq (w : Word) : bField w = decide (w.toNat % 2 = 1) := by
  simp [bField, BitVec.getLsbD, Nat.testBit_zero]

/-- A field of a word is 0, as a number. -/
theorem extract_beq_zero (w : Word) (lo len : Nat) :
    (w.extractLsb' lo len == 0) = decide (w.toNat / 2 ^ lo % 2 ^ len = 0) := by
  rw [Bool.eq_iff_iff, beq_iff_eq, decide_eq_true_eq, ← BitVec.toNat_inj]
  simp [BitVec.extractLsb'_toNat, Nat.shiftRight_eq_div_pow]

/-- The reserved bits of each format, as a number. -/
theorem reservedIsZero_eq (f : Format) (w : Word) :
    f.reservedIsZero w = match f with
      | .fn => decide (w.toNat / 2 ^ 0 % 2 ^ 24 = 0)
      | .flk => decide (w.toNat / 2 ^ 0 % 2 ^ 16 = 0)
      | .flkc => true
      | .fl => decide (w.toNat / 2 ^ 0 % 2 ^ 21 = 0)
      | .fc => decide (w.toNat / 2 ^ 16 % 2 ^ 8 = 0)
      | .fbm => decide (w.toNat / 2 ^ 12 % 2 ^ 12 = 0)
      | .fb => decide (w.toNat / 2 ^ 1 % 2 ^ 23 = 0)
      | .fr => decide (w.toNat / 2 ^ 8 % 2 ^ 16 = 0) := by
  cases f <;> simp only [Format.reservedIsZero, extract_beq_zero]

/-- The fields stay below the opcode. -/
theorem fields_lt (i : Instr) : i.fields < 2 ^ 24 := by
  cases i <;> simp only [Instr.fields] <;> (try omega)
  case seten b => cases b <;> simp
  case suspend b => cases b <;> simp

theorem opcode_lt (i : Instr) : i.opcode < 2 ^ 8 := by cases i <;> simp [Instr.opcode]

theorem encode_toNat (i : Instr) : (encode i).toNat = i.opcode * 2 ^ 24 + i.fields := by
  have := fields_lt i
  have := opcode_lt i
  rw [encode, BitVec.toNat_ofNat, Nat.mod_eq_of_lt (by omega)]

/-- The opcode field of a command's word is its opcode. -/
theorem opcField_encode (i : Instr) : (opcField (encode i)).toNat = i.opcode := by
  have := fields_lt i
  rw [opcField_toNat, encode_toNat]
  omega

/-- A command with its operand fields read again from a word. -/
def Instr.reread (w : Word) : Instr → Instr
  | .filter => .filter
  | .diff => .diff
  | .resolve _ _ => .resolve (layerField w) (keyField w)
  | .iscombo _ => .iscombo (codeField w)
  | .base _ => .base (codeField w)
  | .modmask _ => .modmask (codeField w)
  | .mkcombo _ _ => .mkcombo (modsField w) (baseField w)
  | .classify _ => .classify (codeField w)
  | .cxlate _ => .cxlate (codeField w)
  | .assemble _ => .assemble (layerField w)
  | .dispatch => .dispatch
  | .scan => .scan
  | .kmwrite _ _ _ => .kmwrite (layerField w) (keyField w) (codeField w)
  | .setlayer _ => .setlayer (layerField w)
  | .seten _ => .seten (bField w)
  | .suspend _ => .suspend (bField w)
  | .resume => .resume
  | .txdone => .txdone
  | .rdreg _ => .rdreg (regField w)

theorem commandOf_opcode (i : Instr) (w : Word) : commandOf i.opcode w = some (i.reread w) := by cases i <;> rfl

theorem format_reread (i : Instr) (w : Word) : (i.reread w).format = i.format := by cases i <;> rfl

/-- The opcode map answers a command with that opcode. -/
theorem opcode_of_commandOf {opc : Nat} {w : Word} {i : Instr} (h : commandOf opc w = some i) :
    i.opcode = opc ∧ i.reread w = i := by
  unfold commandOf at h
  split at h <;> cases h <;> exact ⟨rfl, rfl⟩

/-- A word decodes to the command of its opcode when its reserved bits are 0. -/
theorem decode_of_opcode {w : Word} {i : Instr} (ho : (opcField w).toNat = i.opcode)
    (hz : i.format.reservedIsZero w = true) : decode w = .ok (i.reread w) := by
  unfold decode
  rw [ho, commandOf_opcode]
  simp [format_reread, hz]

/-- A word whose reserved bits are not 0 is rejected. -/
theorem decode_reserved {w : Word} {i : Instr} (ho : (opcField w).toNat = i.opcode)
    (hz : i.format.reservedIsZero w = false) : decode w = .error .reserved := by
  unfold decode
  rw [ho, commandOf_opcode]
  simp [format_reread, hz]

/-- What a decoded word is: the opcode of its command, its fields, reserved bits 0. -/
theorem decode_eq_ok {w : Word} {i : Instr} (h : decode w = .ok i) :
    (opcField w).toNat = i.opcode ∧ i.reread w = i ∧ i.format.reservedIsZero w = true := by
  unfold decode at h
  split at h
  · cases h
  · rename_i j hj
    split at h
    · cases h
      have := opcode_of_commandOf hj
      exact ⟨this.1.symm, this.2, by assumption⟩
    · cases h

/-- The bits `lo..lo+len-1` of a word are 0 exactly when the word has nothing under their mask. -/
theorem and_fieldMask_eq_zero_iff (w : Word) (lo len : Nat) (hl : lo + len ≤ 32) :
    w &&& BitVec.ofNat 32 (2 ^ lo * (2 ^ len - 1)) = 0 ↔ w.toNat / 2 ^ lo % 2 ^ len = 0 := by
  constructor
  · intro h
    apply Nat.eq_of_testBit_eq
    intro i
    simp only [Nat.testBit_mod_two_pow, Nat.testBit_div_two_pow, Nat.zero_testBit]
    by_cases hi : i < len
    · have := congrArg (fun x => x.getLsbD (lo + i)) h
      simp only [BitVec.getLsbD_and, BitVec.getLsbD_ofNat, Nat.testBit_two_pow_mul, Nat.testBit_two_pow_sub_one] at this
      have h32 : lo + i < 32 := by omega
      simp only [h32] at this
      simp only [hi, decide_true, Bool.true_and]
      rw [Nat.add_comm]
      simpa [BitVec.getLsbD, hi] using this
    · simp [hi]
  · intro h
    apply BitVec.eq_of_getLsbD_eq
    intro i hi
    have := congrArg (fun x => x.testBit (i - lo)) h
    simp only [Nat.testBit_mod_two_pow, Nat.testBit_div_two_pow, Nat.zero_testBit] at this
    simp only [BitVec.getLsbD_and, BitVec.getLsbD_ofNat, Nat.testBit_two_pow_mul, Nat.testBit_two_pow_sub_one]
    by_cases h1 : lo ≤ i <;> by_cases h2 : i - lo < len <;> simp [h1, h2] at this ⊢
    intro hb
    simp [BitVec.getLsbD, this] at hb

end Sys2Proof
end

