-- ==== Sys2Proof/Laws/Queue.lean ====
section
/-! SUPPORT. The report queue: what pushing a batch does (spec 20_memory.md R81). -/

namespace Sys2Proof.Machine

theorem push_length_le {q : List HidReport} (r : HidReport) (h : q.length ≤ queueCap) :
    (push q r).length ≤ queueCap := by
  unfold push
  split
  · simpa using by omega
  · exact h

theorem pushAll_length_le (rs : List HidReport) {q : List HidReport} (h : q.length ≤ queueCap) :
    (pushAll q rs).length ≤ queueCap := by
  induction rs generalizing q with
  | nil => exact h
  | cons r rs ih => exact ih (push_length_le r h)

/-- One push into a queue within its bound. -/
theorem push_eq_take {q : List HidReport} (r : HidReport) (h : q.length ≤ queueCap) :
    push q r = (q ++ [r]).take queueCap := by
  unfold push
  split
  · rw [List.take_of_length_le (by simpa using by omega)]
  · rw [List.take_append_of_le_length (by omega), List.take_of_length_le h]

/-- Pushing a batch into a queue within its bound: the first ten of the queue and the batch (R81, R234). -/
theorem pushAll_eq_take (rs : List HidReport) {q : List HidReport} (h : q.length ≤ queueCap) :
    pushAll q rs = (q ++ rs).take queueCap := by
  induction rs generalizing q with
  | nil => simp [pushAll, List.take_of_length_le h]
  | cons r rs ih =>
    have hstep : pushAll q (r :: rs) = pushAll (push q r) rs := rfl
    rw [hstep, ih (push_length_le r h), push_eq_take r h]
    by_cases hq : q.length < queueCap
    · rw [List.take_of_length_le (l := q ++ [r]) (by simpa using by omega)]
      simp
    · rw [List.take_append_of_le_length (by omega : queueCap ≤ q.length), List.take_of_length_le (l := q) h,
        List.take_append_of_le_length (by omega), List.take_append_of_le_length (by omega)]

/-- Pushing never reorders: what is in the queue afterwards is a part of the queue and the reports, in order. -/
theorem pushAll_sublist (q rs : List HidReport) : (pushAll q rs).Sublist (q ++ rs) := by
  induction rs generalizing q with
  | nil => simp [pushAll]
  | cons r rs ih =>
    have hstep : (pushAll q (r :: rs)).Sublist (push q r ++ rs) := ih (push q r)
    refine hstep.trans ?_
    unfold push
    split
    · simp
    · exact (List.Sublist.refl q).append (List.sublist_cons_self r rs)

/-- Pushing a batch keeps the queue and appends a part of the batch. -/
theorem pushAll_append (q rs : List HidReport) : ∃ more, pushAll q rs = q ++ more ∧ more.Sublist rs := by
  induction rs generalizing q with
  | nil => exact ⟨[], by simp [pushAll], List.Sublist.refl _⟩
  | cons r rs ih =>
    obtain ⟨more, h, hs⟩ := ih (push q r)
    have hstep : pushAll q (r :: rs) = pushAll (push q r) rs := rfl
    rw [hstep, h]
    unfold push
    split
    · exact ⟨r :: more, by simp, hs.cons_cons r⟩
    · exact ⟨more, rfl, hs.cons r⟩

/-- A push keeps what stood in the queue. -/
theorem pushAll_prefix_length (q rs : List HidReport) : q.length ≤ (pushAll q rs).length := by
  induction rs generalizing q with
  | nil => simp [pushAll]
  | cons r rs ih =>
    refine le_trans ?_ (ih (push q r))
    unfold push
    split <;> simp

end Sys2Proof.Machine
end

