-- ==== Sys2Proof/Laws/Samples.lean ====
section
/-! SUPPORT. The key bits of a sample and the lists over the pressed keys (spec 20_memory.md R78, 41_transition.md). -/

namespace Sys2Proof.Machine

theorem keyBits_getLsbD (cfg : Config) (s : Sample) (k : Fin numKeys) :
    (keyBits cfg s).getLsbD k.val = s.getLsbD (cfg.keyBitMap.get k).val := by
  simp [keyBits]

@[simp] theorem keyBits_getElem (cfg : Config) (s : Sample) (k : Fin numKeys) :
    (keyBits cfg s)[k.val] = s[(cfg.keyBitMap.get k).val] := by
  simpa using keyBits_getLsbD cfg s k

theorem keyBits_xor (cfg : Config) (s t : Sample) : keyBits cfg (s ^^^ t) = keyBits cfg s ^^^ keyBits cfg t := by
  apply BitVec.eq_of_getLsbD_eq
  intro i hi
  have e := fun x => keyBits_getLsbD cfg x ⟨i, hi⟩
  simp only at e
  rw [BitVec.getLsbD_xor, e, e, e, BitVec.getLsbD_xor]

/-- The bit of a changed key (R150). -/
theorem changedKeys_getLsbD (cfg : Config) (prev curr : Sample) (k : Fin numKeys) :
    (changedKeys cfg prev curr).getLsbD k.val =
      (curr.getLsbD (cfg.keyBitMap.get k).val != prev.getLsbD (cfg.keyBitMap.get k).val) := by
  rw [changedKeys, keyBits_getLsbD, BitVec.getLsbD_xor]

theorem changedKeys_eq_ofFnLE (cfg : Config) (prev curr : Sample) :
    changedKeys cfg prev curr = BitVec.ofFnLE fun k : Fin numKeys =>
      curr.getLsbD (cfg.keyBitMap.get k).val != prev.getLsbD (cfg.keyBitMap.get k).val := by
  apply BitVec.eq_of_getLsbD_eq
  intro i hi
  have e := changedKeys_getLsbD cfg prev curr ⟨i, hi⟩
  simp only at e
  rw [e, BitVec.getLsbD_ofFnLE, dif_pos hi]

theorem mem_pressedKeys (mask : KeyMask) (k : Fin numKeys) : k ∈ pressedKeys mask ↔ mask.getLsbD k.val = true := by
  simp [pressedKeys]

/-- Under the reference map the key bits are the low 17 bits (R78). -/
theorem keyBits_reference {cfg : Config} (h : cfg.keyBitMap = Config.reference.keyBitMap) (s : Sample) :
    keyBits cfg s = s.extractLsb' 0 17 := by
  apply BitVec.eq_of_getLsbD_eq
  intro i hi
  have e := keyBits_getLsbD cfg s ⟨i, hi⟩
  simp only at e
  rw [e, h]
  have hm : ∀ k : Fin numKeys, (Config.reference.keyBitMap.get k).val = k.val := by decide
  simp [hm, hi]

/-- A walk over the keys a mask holds is a walk over all keys that skips the others. -/
theorem flatMap_pressedKeys {α : Type} (mask : KeyMask) (f : Fin numKeys → List α) :
    (pressedKeys mask).flatMap f = (List.finRange numKeys).flatMap fun k => if mask.getLsbD k.val then f k else [] := by
  unfold pressedKeys
  generalize List.finRange numKeys = ks
  induction ks with
  | nil => rfl
  | cons k rest ih =>
    rw [List.filter_cons, List.flatMap_cons, ← ih]
    split <;> simp

/-- `cyc_press` as a proposition (R153). -/
theorem pressFlag_iff (changed now : KeyMask) :
    pressFlag changed now = true ↔ ∃ k : Fin numKeys, changed.getLsbD k.val = true ∧ now.getLsbD k.val = true := by
  simp [pressFlag]

/-- A press leaves a pressed key in the sample. -/
theorem pressFlag_ne_zero {changed now : KeyMask} (h : pressFlag changed now = true) : now ≠ 0 := by
  obtain ⟨k, -, hk⟩ := (pressFlag_iff _ _).1 h
  rintro rfl
  simp at hk

/-- The filter is a plain OR (R143). -/
theorem debounce_eq_or (s0 s1 : Sample) : debounce s0 s1 = s0 ||| s1 := by
  apply BitVec.eq_of_getLsbD_eq
  intro i hi
  simp only [debounce, BitVec.getLsbD_or, BitVec.getLsbD_xor]
  cases s0.getLsbD i <;> cases s1.getLsbD i <;> rfl

end Sys2Proof.Machine
end

