-- ==== Sys2Proof/Laws/Exec.lean ====
section
/-! SUPPORT. Everything one command, one turn of the Sender and one step can do. -/

namespace Sys2Proof.Machine

/-- The effect of a command without its STATUS write: `Body i s u` says that `i` takes `s` to `u`. -/
inductive Body (s : State) : Instr → State → Prop where
  | filter : Body s .filter
      (s.setDout ((debounce (samplePort s.inp.din0) (samplePort s.inp.din1)).setWidth 32))
  | diff : Body s .diff
      ((diffStep (samplePort s.inp.din0) s).setDout
        ((changedKeys s.cfg s.prev (samplePort s.inp.din0)).setWidth 32))
  | resolve {layer : BitVec 3} {key : BitVec 5} (l : Fin totalLayers) (k : Fin numKeys)
      (h : asEntry layer key = .ok (l, k)) : Body s (.resolve layer key) (s.setDout ((s.keymap l k).setWidth 32))
  | iscombo (code : KeyCode) : Body s (.iscombo code) (s.setDout (boolWord (isCombo code)))
  | base (code : KeyCode) : Body s (.base code) (s.setDout ((comboBase code).setWidth 32))
  | modmask (code : KeyCode) : Body s (.modmask code) (s.setDout ((modifierMask code).setWidth 32))
  | mkcombo (mods : BitVec 4) (b : BitVec 8) :
      Body s (.mkcombo mods b) (s.setDout ((makeCombo (mkcomboBase b) (mkcomboMods mods)).setWidth 32))
  | classify (code : KeyCode) : Body s (.classify code) (s.setDout (Machine.classify s.cfg code).number)
  | cxlate (code : KeyCode) : Body s (.cxlate code) (s.setDout ((Machine.cxlate s.cfg code).setWidth 32))
  | assemble {layer : BitVec 3} (l : Fin totalLayers) (h : asLayer layer = .ok l) :
      Body s (.assemble layer)
        ((assembleStep (maskPort s.inp.din0) l s).setDout (batchLength (assembleStep (maskPort s.inp.din0) l s)))
  | dispatch : Body s .dispatch ((dispatchStep s).setDout (boolWord s.wakes))
  | scan : Body s .scan
      ((dispatchStep (scanAssemble s)).setDout (scanDout (scanAssemble s).cycPress (scanAssemble s).wakes))
  | kmwrite {layer : BitVec 3} {key : BitVec 5} (code : KeyCode) (l : Fin totalLayers) (k : Fin numKeys)
      (h : asWritableEntry layer key = .ok (l, k)) : Body s (.kmwrite layer key code) (s.writeKeymap l k code)
  | setlayer {layer : BitVec 3} (l : Fin totalLayers) (h : asLayer layer = .ok l) :
      Body s (.setlayer layer) { s with layer := l }
  | seten (b : Bool) :
      Body s (.seten b) (if b then { s with reportEnabled := true } else { s.drain with reportEnabled := false })
  | suspend (b : Bool) : Body s (.suspend b) { s with link := ⟨true, b⟩ }
  | resume : Body s .resume { s with link := ⟨false, s.link.rwa⟩ }
  | txdone : Body s .txdone { s with sender := .idle }
  | rdreg {reg : BitVec 8} (r : Csr) (h : asCsr reg = .ok r) : Body s (.rdreg reg) (s.setDout (s.csr r))

/-- A command is rejected with a status other than OK, or takes its effect and writes OK. -/
def Ran (i : Instr) (s t : State) : Prop :=
  (∃ st, st ≠ Status.ok ∧ (s.fatal = true → st = .fatal) ∧ t = s.setStatus st) ∨
    (s.fatal = false ∧ ∃ u, Body s i u ∧ t = u.setStatus .ok)

theorem ran_checked {α : Type} {i : Instr} {chk : Except Status α} {body : α → State → State} {s t : State}
    (herr : ∀ st, chk = .error st → st ≠ .ok) (hok : ∀ a, chk = .ok a → Body s i (body a s))
    (h : runChecked chk body s = .next t) : Ran i s t := by
  rcases runChecked_next h with ⟨-, rfl⟩ | ⟨hf, st, he, rfl⟩ | ⟨hf, a, ha, rfl⟩
  · exact .inl ⟨.fatal, by simp, fun _ => rfl, rfl⟩
  · exact .inl ⟨st, herr st he, by simp [hf], rfl⟩
  · exact .inr ⟨hf, _, hok a ha, rfl⟩

theorem ran_plain {i : Instr} {body : State → State} {s t : State} (hok : Body s i (body s))
    (h : runPlain body s = .next t) : Ran i s t :=
  ran_checked (fun _ h => by cases h) (fun _ _ => hok) h

/-- Everything a command can do. -/
theorem exec_next {i : Instr} {s t : State} (h : exec i s = .next t) : Ran i s t := by
  cases i with
  | filter =>
    unfold exec execFilter at h
    exact ran_plain .filter h
  | diff =>
    unfold exec execDiff at h
    exact ran_plain .diff h
  | resolve layer key =>
    unfold exec execResolve at h
    exact ran_checked (fun _ => asEntry_error_ne_ok) (fun a ha => .resolve a.1 a.2 ha) h
  | iscombo code =>
    unfold exec execIscombo at h
    exact ran_plain (.iscombo code) h
  | base code =>
    unfold exec execBase at h
    exact ran_plain (.base code) h
  | modmask code =>
    unfold exec execModmask at h
    exact ran_plain (.modmask code) h
  | mkcombo mods b =>
    unfold exec execMkcombo at h
    exact ran_plain (.mkcombo mods b) h
  | classify code =>
    unfold exec execClassify at h
    exact ran_plain (.classify code) h
  | cxlate code =>
    unfold exec execCxlate at h
    exact ran_plain (.cxlate code) h
  | assemble layer =>
    unfold exec execAssemble at h
    exact ran_checked (fun _ => asLayer_error_ne_ok) (fun l hl => .assemble l hl) h
  | dispatch =>
    unfold exec execDispatch at h
    exact ran_plain .dispatch h
  | scan =>
    unfold exec execScan at h
    exact ran_plain .scan h
  | kmwrite layer key code =>
    unfold exec execKmwrite at h
    exact ran_checked (fun _ => asWritableEntry_error_ne_ok) (fun a ha => .kmwrite code a.1 a.2 ha) h
  | setlayer layer =>
    unfold exec execSetlayer at h
    exact ran_checked (fun _ => asLayer_error_ne_ok) (fun l hl => .setlayer l hl) h
  | seten b =>
    unfold exec execSeten at h
    exact ran_plain (.seten b) h
  | suspend b =>
    unfold exec execSuspend at h
    exact ran_plain (.suspend b) h
  | resume =>
    unfold exec execResume at h
    exact ran_plain .resume h
  | txdone =>
    unfold exec execTxdone at h
    exact ran_plain .txdone h
  | rdreg reg =>
    unfold exec execRdreg at h
    exact ran_checked (fun _ => asCsr_error_ne_ok) (fun r hr => .rdreg r hr) h

/-- A checked command always answers a next state. -/
theorem runChecked_total {α : Type} (chk : Except Status α) (body : α → State → State) (s : State) :
    ∃ t, runChecked chk body s = .next t := by
  unfold runChecked
  split
  · exact ⟨_, rfl⟩
  · split <;> exact ⟨_, rfl⟩

/-- Every command answers a next state. -/
theorem exec_total (i : Instr) (s : State) : ∃ t, exec i s = .next t := by
  cases i <;> simp only [exec, execFilter, execDiff, execResolve, execIscombo, execBase, execModmask, execMkcombo, execClassify, execCxlate, execAssemble, execDispatch, execScan, execKmwrite, execSetlayer, execSeten, execSuspend, execResume, execTxdone, execRdreg,
    runPlain] <;> exact runChecked_total _ _ _

/-- Every word answers a next state. -/
theorem runWord_total (w : Word) (s : State) : ∃ t, runWord w s = .next t := by
  unfold runWord
  split
  · exact exec_total _ _
  · exact ⟨_, rfl⟩

/-- A command in the fatal state. -/
theorem exec_fatal (i : Instr) {s : State} (h : s.fatal = true) : exec i s = .next (s.setStatus .fatal) := by
  cases i <;> simp only [exec, execFilter, execDiff, execResolve, execIscombo, execBase, execModmask, execMkcombo, execClassify, execCxlate, execAssemble, execDispatch, execScan, execKmwrite, execSetlayer, execSeten, execSuspend, execResume, execTxdone, execRdreg,
    runPlain] <;> exact runChecked_fatal _ _ h

/-- Everything a turn of the Sender can do. -/
theorem senderStep_cases (s : State) :
    (∃ r q, s.fatal = false ∧ s.sender = .idle ∧ s.queue = r :: q ∧ s.link.suspended = false ∧
      senderStep s = { s.emit [txRecord s.cfg r] with
        queue := q
        sender := .wait s.inp.now }) ∨
    (s.fatal = false ∧ s.sender = .idle ∧ s.queue ≠ [] ∧ s.link.suspended = true ∧
      senderStep s = (s.emit (wakeRecords s.inp.wakeOk)).drain) ∨
    (∃ since, s.fatal = false ∧ s.sender = .wait since ∧ timedOut since s.inp.now = true ∧
      senderStep s = senderTimeout s) ∨
    senderStep s = s := by
  cases hf : s.fatal with
  | true => exact .inr (.inr (.inr (by simp [senderStep, hf])))
  | false =>
    cases hs : s.sender with
    | idle =>
      cases hq : s.queue with
      | nil => exact .inr (.inr (.inr (by simp [senderStep, hf, hs, hq])))
      | cons r q =>
        cases hl : s.link.suspended with
        | false => exact .inl ⟨r, q, rfl, rfl, rfl, rfl, by simp [senderStep, senderPop, hf, hs, hq, hl]⟩
        | true => exact .inr (.inl ⟨rfl, rfl, by simp, rfl, by simp [senderStep, senderPop, hf, hs, hq, hl]⟩)
    | wait since =>
      cases ht : timedOut since s.inp.now with
      | true => exact .inr (.inr (.inl ⟨since, rfl, rfl, ht, by simp [senderStep, hf, hs, ht]⟩))
      | false => exact .inr (.inr (.inr (by simp [senderStep, hf, hs, ht])))

/-- Everything an event can do. -/
theorem runEvent_next {e : Event} {s t : State} (h : runEvent e s = .next t) :
    (∃ w p i, e = .command w p ∧ decode w = .ok i ∧ Ran i { s with inp := p } t) ∨
    (∃ w p, ∃ err st, e = .command w p ∧ decode w = .error err ∧ t = State.setStatus st { s with inp := p }) ∨
    (∃ now ok, e = .sender now ok ∧ t = senderStep { s with inp := s.inp.forSender now ok }) ∨
    (∃ ok, e = .reset ok ∧ t = s.applyReset ok) := by
  cases e with
  | command w p =>
    simp only [runEvent, runWord] at h
    split at h
    · rename_i i hi
      exact .inl ⟨w, p, i, rfl, hi, exec_next h⟩
    · rename_i err he
      injection h with h
      exact .inr (.inl ⟨w, p, err, _, rfl, he, h.symm⟩)
  | sender now ok =>
    injection h with h
    exact .inr (.inr (.inl ⟨now, ok, rfl, h.symm⟩))
  | reset ok =>
    injection h with h
    exact .inr (.inr (.inr ⟨ok, rfl, h.symm⟩))

/-- No command's effect touches `fatal` (R58, R304). -/
theorem Body.fatal_eq {i : Instr} {s u : State} (h : Body s i u) : u.fatal = s.fatal := by
  cases h with
  | seten b => cases b <;> rfl
  | dispatch => simp
  | scan => simp
  | _ => rfl

theorem senderStep_fatal (s : State) : (senderStep s).fatal = s.fatal := by
  obtain ⟨_, _, -, -, -, -, h⟩ | ⟨-, -, -, -, h⟩ | ⟨_, -, -, -, h⟩ | h := senderStep_cases s <;> rw [h] <;> rfl

/-- Every event answers a next state. -/
theorem runEvent_total (e : Event) (s : State) : ∃ t, runEvent e s = .next t := by
  cases e with
  | command w p => exact runWord_total _ _
  | sender now ok => exact ⟨_, rfl⟩
  | reset ok => exact ⟨_, rfl⟩

end Sys2Proof.Machine
end

