-- ==== Sys2Proof/Laws/Fault.lean ====
section
/-! SUPPORT. The fault state in terms of `fatal`: the small lemmas of `State.fault?`, `State.treatment`,
`State.isFinal`, and what an event does to `fatal` (spec 60_exceptions.md R304). -/

namespace Sys2Proof.Machine

@[simp] theorem fault?_eq_none (s : State) : s.fault? = none ↔ s.fatal = false := by
  cases h : s.fatal <;> simp [State.fault?, h]

@[simp] theorem fault?_eq_some (s : State) (e : Fault) : s.fault? = some e ↔ s.fatal = true := by
  cases e
  cases h : s.fatal <;> simp [State.fault?, h]

theorem treatment_of_fatal {s : State} (h : s.fatal = true) : s.treatment = .fault := by
  simp [State.treatment, State.fault?, h]

theorem treatment_of_not_fatal {s : State} (h : s.fatal = false) :
    s.treatment = if s.status = Status.ok.code then .accepted else .refusal := by
  simp [State.treatment, State.fault?, h]

theorem isFinal_iff (s : State) : s.isFinal ↔ s.fatal = false := fault?_eq_none s

theorem Ran.fatal_eq {i : Instr} {s t : State} (h : Ran i s t) : t.fatal = s.fatal := by
  obtain ⟨_, -, -, rfl⟩ | ⟨-, _, hb, rfl⟩ := h
  · rfl
  · exact hb.fatal_eq

/-- An event that is no reset keeps `fatal`; a reset sets it to NOT INIT_OK (R342). -/
theorem runEvent_fatal {e : Event} {s t : State} (h : runEvent e s = .next t) :
    t.fatal = match e with
      | .reset ok => !ok
      | .command _ _ => s.fatal
      | .sender _ _ => s.fatal := by
  obtain ⟨_, _, _, rfl, -, hr⟩ | ⟨_, _, _, _, rfl, -, rfl⟩ | ⟨_, _, rfl, rfl⟩ | ⟨_, rfl, rfl⟩ := runEvent_next h
  · exact hr.fatal_eq
  · rfl
  · exact senderStep_fatal _
  · rfl

end Sys2Proof.Machine
end

