-- ==== Sys2Proof/Laws/Memory.lean ====
section
/-! SUPPORT. The keymap's storage: reads after writes, and that every operation keeps the canonical form. -/

namespace Sys2Proof.Machine

theorem Memory.lookup_cons_ite (b i : Nat) (w : KeyCode) (rest : Memory) :
    List.lookup b ((i, w) :: rest) = if b = i then some w else List.lookup b rest := by
  by_cases h : b = i
  · simp [h]
  · have : (b == i) = false := by simpa using h
    simp [List.lookup, this, h]

/-- What an insertion lists for each index. -/
theorem Memory.lookup_insert (m : Memory) (a b : Nat) (v : KeyCode) :
    (Memory.insert a v m).lookup b = if b = a then some v else m.lookup b := by
  induction m with
  | nil => simp [Memory.insert, Memory.lookup_cons_ite]
  | cons c rest ih =>
    obtain ⟨i, w⟩ := c
    unfold Memory.insert
    split
    · rw [Memory.lookup_cons_ite]
    · split
      · subst_vars
        simp only [Memory.lookup_cons_ite]
        split <;> rfl
      · simp only [Memory.lookup_cons_ite, ih]
        split_ifs <;> simp_all

/-- What an erasure lists for each index. -/
theorem Memory.lookup_erase (m : Memory) (a b : Nat) :
    (Memory.erase a m).lookup b = if b = a then none else m.lookup b := by
  induction m with
  | nil => simp [Memory.erase]
  | cons c rest ih =>
    obtain ⟨i, w⟩ := c
    unfold Memory.erase at ih ⊢
    by_cases hi : i = a
    · subst hi
      simp only [List.filter_cons, bne_self_eq_false, Bool.false_eq_true, if_false, ih, Memory.lookup_cons_ite]
      split <;> rfl
    · simp only [List.filter_cons, bne_iff_ne, ne_eq, hi, not_false_iff, if_true, ih, Memory.lookup_cons_ite]
      split_ifs <;> simp_all

/-- A read after a write to the same index gives the value written. -/
@[simp] theorem Memory.read_write_same (cfg : Config) (m : Memory) (a : Nat) (v : KeyCode) :
    (m.write cfg a v).read cfg a = v := by
  unfold Memory.write Memory.read
  split
  · simp [Memory.lookup_erase, *]
  · simp [Memory.lookup_insert]

/-- A write leaves every other index alone. -/
theorem Memory.read_write_other (cfg : Config) (m : Memory) {a b : Nat} (v : KeyCode) (h : b ≠ a) :
    (m.write cfg a v).read cfg b = m.read cfg b := by
  unfold Memory.write Memory.read
  split
  · simp [Memory.lookup_erase, h]
  · simp [Memory.lookup_insert, h]

/-- The index of an entry determines it (R76). -/
theorem linearIndex_inj {l l' : Fin totalLayers} {k k' : Fin numKeys}
    (h : linearIndex l k = linearIndex l' k') : l = l' ∧ k = k' := by
  obtain ⟨l, hl⟩ := l
  obtain ⟨k, hk⟩ := k
  obtain ⟨l', hl'⟩ := l'
  obtain ⟨k', hk'⟩ := k'
  simp only [linearIndex, Fin.mk.injEq] at *
  unfold numKeys at *
  omega

theorem Memory.wf_nil (cfg : Config) : Memory.wf cfg [] := by simp [Memory.wf]

theorem Memory.mem_insert {m : Memory} {a : Nat} {v : KeyCode} {c : Nat × KeyCode}
    (h : c ∈ Memory.insert a v m) : c = (a, v) ∨ c ∈ m := by
  induction m with
  | nil => simpa [Memory.insert] using h
  | cons d rest ih =>
    obtain ⟨i, w⟩ := d
    unfold Memory.insert at h
    split at h
    · simpa using h
    · split at h
      · simp only [List.mem_cons] at h ⊢
        tauto
      · simp only [List.mem_cons] at h ⊢
        rcases h with h | h
        · tauto
        · have := ih h
          tauto

theorem Memory.pairwise_insert {m : Memory} (a : Nat) (v : KeyCode)
    (h : (m.map Prod.fst).Pairwise (· < ·)) : ((Memory.insert a v m).map Prod.fst).Pairwise (· < ·) := by
  induction m with
  | nil => simp [Memory.insert]
  | cons d rest ih =>
    obtain ⟨i, w⟩ := d
    simp only [List.map_cons, List.pairwise_cons] at h
    unfold Memory.insert
    split
    · rename_i hlt
      simp only [List.map_cons, List.pairwise_cons, List.mem_cons]
      refine ⟨?_, h⟩
      rintro b (rfl | hb)
      · exact hlt
      · exact lt_trans hlt (h.1 b hb)
    · split
      · subst_vars
        simpa using h
      · rename_i h1 h2
        simp only [List.map_cons, List.pairwise_cons]
        refine ⟨?_, ih h.2⟩
        intro b hb
        obtain ⟨c, hc, rfl⟩ := List.mem_map.1 hb
        rcases Memory.mem_insert hc with rfl | hc
        · simp only
          omega
        · exact h.1 _ (List.mem_map_of_mem hc)

/-- Every write to layers 1..6 keeps the canonical form. -/
theorem Memory.wf_write {cfg : Config} {m : Memory} {a : Nat} (v : KeyCode) (h : Memory.wf cfg m)
    (lo : 17 ≤ a) (hi : a < 119) : Memory.wf cfg (m.write cfg a v) := by
  unfold Memory.write
  split
  · refine ⟨?_, fun c hc => h.2 c (List.mem_of_mem_filter hc)⟩
    exact h.1.sublist (List.filter_sublist.map _)
  · rename_i hne
    refine ⟨Memory.pairwise_insert a v h.1, fun c hc => ?_⟩
    rcases Memory.mem_insert hc with rfl | hc
    · exact ⟨lo, hi, hne⟩
    · exact h.2 c hc

/-- A canonical storage lists nothing of layer 0, so layer 0 reads as KEYMAP0 (R72, R341). -/
theorem Memory.read_layer0 {cfg : Config} {m : Memory} (h : Memory.wf cfg m) (k : Fin numKeys) :
    m.read cfg (linearIndex 0 k) = cfg.keymap0[k] := by
  have hk : linearIndex 0 k < 17 := by simp [linearIndex]
  have hnone : m.lookup (linearIndex 0 k) = none := by
    rw [List.lookup_eq_none_iff]
    intro c hc
    have := (h.2 c hc).1
    simp only [bne_iff_ne, ne_eq]
    omega
  unfold Memory.read initialEntry
  rw [hnone, dif_pos hk]
  simp [linearIndex]

/-- The indices of layers 1..6 (R76). -/
theorem linearIndex_bounds {l : Fin totalLayers} (k : Fin numKeys) (h : l ≠ 0) :
    17 ≤ linearIndex l k ∧ linearIndex l k < 119 := by
  obtain ⟨l, hl⟩ := l
  obtain ⟨k, hk⟩ := k
  have : l ≠ 0 := by simpa [Fin.ext_iff] using h
  simp only [linearIndex]
  unfold totalLayers at hl
  unfold numKeys at hk
  omega

end Sys2Proof.Machine
end

