-- ==== Sys2Proof/Laws/PerInstr.lean ====
section
/-! SUPPORT. Facts about every command, one lemma per constructor. The family `WordShape`: the word of a command holds
its opcode in bits 31:24 and 0 in the bits its format marks "must be 0" (spec 30_encoding.md R100 to R111). -/

namespace Sys2Proof.Laws.WordShape

/-- What the family states of a command. -/
def Statement (i : Instr) : Prop :=
  (opcField (encode i)).toNat = i.opcode ∧ i.format.reservedIsZero (encode i) = true

theorem filter : Statement .filter := ⟨opcField_encode _, by rw [reservedIsZero_eq]; rfl⟩

theorem diff : Statement .diff := ⟨opcField_encode _, by rw [reservedIsZero_eq]; rfl⟩

theorem resolve (layer : BitVec 3) (key : BitVec 5) : Statement (.resolve layer key) := by
  refine ⟨opcField_encode _, ?_⟩
  rw [reservedIsZero_eq]
  simp only [Instr.format, encode_toNat, Instr.opcode, Instr.fields, decide_eq_true_eq]
  omega

theorem iscombo (code : KeyCode) : Statement (.iscombo code) := by
  refine ⟨opcField_encode _, ?_⟩
  rw [reservedIsZero_eq]
  simp only [Instr.format, encode_toNat, Instr.opcode, Instr.fields, decide_eq_true_eq]
  omega

theorem base (code : KeyCode) : Statement (.base code) := by
  refine ⟨opcField_encode _, ?_⟩
  rw [reservedIsZero_eq]
  simp only [Instr.format, encode_toNat, Instr.opcode, Instr.fields, decide_eq_true_eq]
  omega

theorem modmask (code : KeyCode) : Statement (.modmask code) := by
  refine ⟨opcField_encode _, ?_⟩
  rw [reservedIsZero_eq]
  simp only [Instr.format, encode_toNat, Instr.opcode, Instr.fields, decide_eq_true_eq]
  omega

theorem mkcombo (mods : BitVec 4) (x : BitVec 8) : Statement (.mkcombo mods x) := by
  refine ⟨opcField_encode _, ?_⟩
  rw [reservedIsZero_eq]
  simp only [Instr.format, encode_toNat, Instr.opcode, Instr.fields, decide_eq_true_eq]
  omega

theorem classify (code : KeyCode) : Statement (.classify code) := by
  refine ⟨opcField_encode _, ?_⟩
  rw [reservedIsZero_eq]
  simp only [Instr.format, encode_toNat, Instr.opcode, Instr.fields, decide_eq_true_eq]
  omega

theorem cxlate (code : KeyCode) : Statement (.cxlate code) := by
  refine ⟨opcField_encode _, ?_⟩
  rw [reservedIsZero_eq]
  simp only [Instr.format, encode_toNat, Instr.opcode, Instr.fields, decide_eq_true_eq]
  omega

theorem assemble (layer : BitVec 3) : Statement (.assemble layer) := by
  refine ⟨opcField_encode _, ?_⟩
  rw [reservedIsZero_eq]
  simp only [Instr.format, encode_toNat, Instr.opcode, Instr.fields, decide_eq_true_eq]
  omega

theorem dispatch : Statement .dispatch := ⟨opcField_encode _, by rw [reservedIsZero_eq]; rfl⟩

theorem scan : Statement .scan := ⟨opcField_encode _, by rw [reservedIsZero_eq]; rfl⟩

theorem kmwrite (layer : BitVec 3) (key : BitVec 5) (code : KeyCode) : Statement (.kmwrite layer key code) := ⟨opcField_encode _, rfl⟩

theorem setlayer (layer : BitVec 3) : Statement (.setlayer layer) := by
  refine ⟨opcField_encode _, ?_⟩
  rw [reservedIsZero_eq]
  simp only [Instr.format, encode_toNat, Instr.opcode, Instr.fields, decide_eq_true_eq]
  omega

theorem seten (b : Bool) : Statement (.seten b) := by
  refine ⟨opcField_encode _, ?_⟩
  rw [reservedIsZero_eq]
  cases b <;> rfl

theorem suspend (b : Bool) : Statement (.suspend b) := by
  refine ⟨opcField_encode _, ?_⟩
  rw [reservedIsZero_eq]
  cases b <;> rfl

theorem resume : Statement .resume := ⟨opcField_encode _, by rw [reservedIsZero_eq]; rfl⟩

theorem txdone : Statement .txdone := ⟨opcField_encode _, by rw [reservedIsZero_eq]; rfl⟩

theorem rdreg (reg : BitVec 8) : Statement (.rdreg reg) := by
  refine ⟨opcField_encode _, ?_⟩
  rw [reservedIsZero_eq]
  simp only [Instr.format, encode_toNat, Instr.opcode, Instr.fields, decide_eq_true_eq]
  omega

end Sys2Proof.Laws.WordShape
end

