-- ==== Sys2Proof/Laws/Report.lean ====
section
/-! SUPPORT. The bits of the full-key bitmap and the slots of the boot report (spec 43_assembler.md R203, R205). -/

namespace Sys2Proof.Machine

/-- Bit `j` of a bitmap: bit `j mod 8` of byte `j div 8` (R128). -/
def bitmapBit (bitmap : Vector Byte bitmapBytes) (j : Nat) : Bool := (bitmap.toList.getD (j / 8) 0).getLsbD (j % 8)

theorem bootSlotsOf_toList {regular : List Byte} (h : regular.length ≤ bootSlots) :
    (bootSlotsOf regular).toList = regular ++ List.replicate (bootSlots - regular.length) 0 := by
  apply List.ext_getElem
  · simp
    omega
  · intro n h1 h2
    simp only [bootSlotsOf, Vector.getElem_toList, Vector.getElem_ofFn]
    by_cases hn : n < regular.length
    · simp [List.getElem_append_left hn, hn]
    · rw [List.getElem_append_right (by omega)]
      simp [hn]

/-- A one-bit byte. -/
theorem getLsbD_one_shift (n i : Nat) (hi : i < 8) : (1#8 <<< n).getLsbD i = decide (n = i) := by
  rw [BitVec.getLsbD_shiftLeft]
  by_cases h : n = i
  · subst h
    simp [hi]
  · by_cases hlt : i < n
    · simp [hlt, h]
    · have : i - n ≠ 0 := by omega
      simp [h, this, BitVec.getLsbD_one]

/-- Setting one code's bit sets that bit and no other. -/
theorem bitmapBit_setBitmapBit (bitmap : Vector Byte bitmapBytes) (c : Byte) {j : Nat} (hj : j < 120) :
    bitmapBit (setBitmapBit bitmap c) j = (bitmapBit bitmap j || decide (c.toNat = j + 4)) := by
  unfold setBitmapBit
  split
  · rename_i h
    simp only [hasBitmapBit, decide_eq_true_eq] at h
    have hset : ∀ (i : Nat) (b : Byte), i < 15 →
        (bitmap.setIfInBounds i b).toList.getD (j / 8) 0 = if i = j / 8 then b else bitmap.toList.getD (j / 8) 0 := by
      intro i b hi
      simp only [Vector.toList_setIfInBounds, List.getD_eq_getElem?_getD, List.getElem?_set, Vector.length_toList]
      split_ifs <;> simp
    unfold bitmapBit
    rw [hset _ _ (by omega)]
    by_cases hb : (c.toNat - 4) / 8 = j / 8
    · rw [if_pos hb, hb, BitVec.getLsbD_or, getLsbD_one_shift _ _ (Nat.mod_lt j (by omega))]
      congr 1
      apply decide_eq_decide.2
      omega
    · have : c.toNat ≠ j + 4 := by omega
      simp [hb, this]
  · rename_i h
    simp only [hasBitmapBit, decide_eq_true_eq] at h
    have : c.toNat ≠ j + 4 := by omega
    simp [this]

theorem bitmapBit_foldl (regular : List Byte) (bitmap : Vector Byte bitmapBytes) {j : Nat} (hj : j < 120) :
    bitmapBit (regular.foldl setBitmapBit bitmap) j =
      (bitmapBit bitmap j || regular.any fun c => decide (c.toNat = j + 4)) := by
  induction regular generalizing bitmap with
  | nil => simp
  | cons c rest ih => simp [ih, bitmapBit_setBitmapBit _ _ hj, Bool.or_assoc]

end Sys2Proof.Machine
end

