-- ==== Sys2Proof/Tests/Slice0.lean ====
section
/-! SUPPORT. The model's own tests. Expected values come from spec/95_test_vectors.md (the vector is named beside each)
or from the rule named; the witnesses meet the hypotheses of the statements in Certificates/Slice0/Obligations.lean. -/

open Sys2Proof Sys2Proof.Machine Sys2Proof.Claims

namespace Sys2Proof.Tests

/-! ### The fixture (95_test_vectors.md §1) -/

/-- Fixture keymap F. -/
def fixtureCode (l k : Nat) : KeyCode :=
  match l, k with
  | 0, 0 => 0x0004
  | 1, 16 => 0x00A9
  | 1, k => BitVec.ofNat 16 (0x0004 + k)
  | 2, 0 => 0x00E1
  | 2, 1 => 0x7104
  | 2, 3 => 0x8005
  | 2, 4 => 0x0123
  | 2, 5 => 0x00E7
  | 2, 6 => 0x00A8
  | 2, 7 => 0x00A9
  | 3, 0 => 0x007B
  | 3, 1 => 0x007C
  | 3, 2 => 0x0003
  | 3, 10 => 0x0004
  | 3, 11 => 0x7200
  | 3, k => if 3 ≤ k ∧ k ≤ 9 then BitVec.ofNat 16 (0x0001 + k) else 0
  | _, _ => 0

def fixtureLed (k : Nat) : Option LedPosition :=
  match k with
  | 0 => some (0, 0)
  | 1 => some (0, 1)
  | _ => none

def fixture : Config := { Config.reference with
  ledMap := Vector.ofFn fun k => fixtureLed k.val
  keymap0 := Vector.ofFn fun k => fixtureCode 0 k.val
  keymapInit := Vector.ofFn fun i => fixtureCode (i.val / 17 + 1) (i.val % 17) }

/-- Start state S0. -/
def s0 : State := { State.reset with cfg := fixture }

/-- S0 with values at the data ports and the time. -/
def s0At (din0 din1 now : Word) : State := { s0 with
  inp := { Inputs.zero with
    din0 := din0
    din1 := din1
    now := now } }

/-- S0 with the two captures. -/
def s0Raw (raw0 raw1 : Sample) : State := { s0 with
  inp := { Inputs.zero with
    raw0 := raw0
    raw1 := raw1 } }

def nextOf (r : Result) : Option State :=
  match r with
  | .next t => some t
  | .fault _ => none
  | .refused _ => none

/-- Something about the state after a word. -/
def look {α : Type} (f : State → α) (w : Word) (s : State) : Option α := (nextOf (runWord w s)).map f

def boot (modifier : Byte) (codes : Vector Byte 6) : HidReport := .keyboard modifier codes
def r1 : HidReport := boot 0x00 #v[4, 5, 6, 0, 0, 0]
def empty : HidReport := boot 0x00 #v[0, 0, 0, 0, 0, 0]

theorem test_fixture_valid : fixture.valid = true := by decide

/-! ### WellFormed refuses each ill-formed term (R109) -/

theorem test_wf_refuses :
    (Instr.resolve 7 0).wellFormed = false ∧ (Instr.resolve 0 17).wellFormed = false ∧
    (Instr.assemble 7).wellFormed = false ∧ (Instr.kmwrite 0 0 5).wellFormed = false ∧
    (Instr.kmwrite 7 0 5).wellFormed = false ∧ (Instr.kmwrite 1 17 5).wellFormed = false ∧
    (Instr.setlayer 7).wellFormed = false ∧ (Instr.rdreg 0x0B).wellFormed = false := by decide

theorem test_wf_accepts :
    (Instr.resolve 6 16).wellFormed = true ∧ (Instr.assemble 6).wellFormed = true ∧
    (Instr.kmwrite 1 0 5).wellFormed = true ∧ (Instr.kmwrite 6 16 0x8005).wellFormed = true ∧
    (Instr.setlayer 0).wellFormed = true ∧ (Instr.rdreg 0x0A).wellFormed = true := by decide

/-! ### Words of the spec decode to their commands (95_test_vectors.md §3, §4; 30_encoding.md R111) -/

theorem test_decode_filter : decode 0x01000000 = .ok .filter := by decide
theorem test_decode_diff : decode 0x02000000 = .ok .diff := by decide
theorem test_decode_resolve : decode 0x03440000 = .ok (.resolve 2 4) := by decide
theorem test_decode_iscombo : decode 0x04007104 = .ok (.iscombo 0x7104) := by decide
theorem test_decode_base : decode 0x05000123 = .ok (.base 0x0123) := by decide
theorem test_decode_modmask : decode 0x06007A80 = .ok (.modmask 0x7A80) := by decide
theorem test_decode_mkcombo : decode 0x07000A80 = .ok (.mkcombo 0xA 0x80) := by decide
theorem test_decode_classify : decode 0x080000E1 = .ok (.classify 0x00E1) := by decide
theorem test_decode_cxlate : decode 0x090000A9 = .ok (.cxlate 0x00A9) := by decide
theorem test_decode_assemble : decode 0x0A600000 = .ok (.assemble 3) := by decide
theorem test_decode_dispatch : decode 0x0B000000 = .ok .dispatch := by decide
theorem test_decode_scan : decode 0x0C000000 = .ok .scan := by decide
theorem test_decode_kmwrite : decode 0x0DD08005 = .ok (.kmwrite 6 16 0x8005) := by decide
theorem test_decode_setlayer : decode 0x0EC00000 = .ok (.setlayer 6) := by decide
theorem test_decode_seten : decode 0x0F000001 = .ok (.seten true) := by decide
theorem test_decode_suspend : decode 0x10000001 = .ok (.suspend true) := by decide
theorem test_decode_resume : decode 0x11000000 = .ok .resume := by decide
theorem test_decode_txdone : decode 0x12000000 = .ok .txdone := by decide
theorem test_decode_rdreg : decode 0x13000009 = .ok (.rdreg 9) := by decide

/-- V-EX-1. -/
theorem test_decode_illegal :
    decode 0x00000000 = .error .illegalOpcode ∧ decode 0x14000000 = .error .illegalOpcode ∧
    decode 0xFF000000 = .error .illegalOpcode ∧ decode 0x20FFFFFF = .error .illegalOpcode := by decide

/-- V-DB-9, V-TD-9, V-KM-7, V-KM-20, V-KM-21, V-AS-12, V-DP-12, V-DP-13. -/
theorem test_decode_reserved :
    decode 0x01000001 = .error .reserved ∧ decode 0x02800000 = .error .reserved ∧
    decode 0x03F10001 = .error .reserved ∧ decode 0x07001000 = .error .reserved ∧
    decode 0x04017104 = .error .reserved ∧ decode 0x0A200001 = .error .reserved ∧
    decode 0x1300010A = .error .reserved ∧ decode 0x10000002 = .error .reserved ∧
    decode 0x12000001 = .error .reserved := by decide

/-- The opcode table numbers bit 0 first and gives every row 32 bits. -/
theorem test_table_word : decodeTableWord 32 0x03440000 = some (.resolve 2 4) ∧ decodeTableWord 32 0 = none := by decide

/-! ### One step of each command -/

/-- V-DB-5, V-DB-7. -/
theorem test_filter :
    look (·.dout) 0x01000000 (s0At 0xA5A5A5 0x5A5A5A 0) = some 0x00FFFFFF ∧
    look (·.dout) 0x01000000 (s0At 0xFF000001 0xAB000002 0) = some 0x00000003 := by decide

/-- V-TD-3: the records in order, `prev`, `cyc_press`, DOUT. -/
theorem test_diff :
    look (fun t => (t.trace, t.prev, t.cycPress, t.dout)) 0x02000000 { s0At 0x000006 0 0 with prev := 0x000003 } =
      some ([.evt 0 false, .led 0 0 false, .evt 2 true], 0x000006, true, 0x00000005) := by decide

/-- V-TD-5: a change of the bits beyond the keys. -/
theorem test_diff_extra_bits :
    look (fun t => (t.trace, t.prev, t.cycPress, t.dout)) 0x02000000 (s0At 0xFE0000 0 0) =
      some ([], 0xFE0000, false, 0) := by decide

/-- V-KM-2, V-KM-3. -/
theorem test_resolve :
    look (·.dout) 0x03300000 s0 = some 0x000000A9 ∧ look (·.dout) 0x03440000 s0 = some 0x00000123 := by decide

/-- V-KM-5, V-KM-6. -/
theorem test_resolve_range :
    look (fun t => (t.dout, t.status)) 0x03110000 s0 = some (0, 0x03) ∧
    look (fun t => (t.dout, t.status)) 0x03E00000 s0 = some (0, 0x03) := by decide

/-- V-KM-15, V-KM-16. -/
theorem test_iscombo :
    look (·.dout) 0x0400F000 s0 = some 1 ∧ look (·.dout) 0x04003000 s0 = some 0 := by decide

/-- V-KM-19. -/
theorem test_base : look (·.dout) 0x05000123 s0 = some 0x23 := by decide

/-- V-KM-13a. -/
theorem test_modmask : look (·.dout) 0x06007A80 s0 = some 0x0A00 := by decide

/-- V-KM-13. -/
theorem test_mkcombo : look (·.dout) 0x07000A80 s0 = some 0x00007A80 := by decide

/-- V-KM-25, V-KM-26, V-KM-29, V-KM-35, V-KM-36. -/
theorem test_classify :
    look (·.dout) 0x080000E7 s0 = some 2 ∧ look (·.dout) 0x080000E8 s0 = some 4 ∧
    look (·.dout) 0x080000AD s0 = some 3 ∧ look (·.dout) 0x0800EFFF s0 = some 5 ∧
    look (·.dout) 0x0800F000 s0 = some 1 := by decide

/-- V-KM-43, V-KM-44, V-KM-47. -/
theorem test_cxlate :
    look (·.dout) 0x090000BE s0 = some 0x00000070 ∧ look (·.dout) 0x090000AD s0 = some 0 ∧
    look (·.dout) 0x090070A9 s0 = some 0 := by decide

/-- V-AS-2, step 3: the reset pulse. -/
theorem test_assemble_pulse :
    look (fun t => (t.batch, t.dout, t.useFullKey)) 0x0A200000 { s0At 0x0003 0 0 with useFullKey := true } =
      some ([.fullKey 0 (Vector.replicate 15 0), boot 0 #v[4, 5, 0, 0, 0, 0]], 2, false) := by decide

/-- V-AS-4: the edges of the bitmap; V-AS-5a and V-AS-5d: the modifier byte. -/
theorem test_assemble_edges :
    look (fun t => (t.batch, t.useFullKey)) 0x0A600000 (s0At 0x03FF 0 0) =
      some ([.fullKey 0 #v[0x7F, 0, 0, 0, 0, 0, 0, 0, 0, 0, 0, 0, 0, 0, 0x80]], true) ∧
    look (·.batch) 0x0A400000 (s0At 0x0003 0 0) = some [boot 0x03 #v[4, 0, 0, 0, 0, 0]] ∧
    look (·.batch) 0x0A400000 (s0At 0x0020 0 0) = some [boot 0x80 #v[0, 0, 0, 0, 0, 0]] := by decide

/-- V-DP-6: a batch of three into a queue with one free slot. -/
theorem test_dispatch_drops :
    look (fun t => (t.queue.drop 9, t.batch, t.dout)) 0x0B000000
        { s0 with
          queue := List.replicate 9 r1
          batch := [resetPulse, empty, .consumer 0x00E9] } = some ([resetPulse], [], 0) := by decide

/-- V-DP-3: one WAKE record, a false answer is logged. -/
theorem test_dispatch_wakes :
    look (fun t => (t.trace, t.queue, t.cycPress, t.dout)) 0x0B000000
        { s0 with
          link := ⟨true, true⟩
          batch := [r1]
          cycPress := true } = some ([.wake, .log 0x02], [], false, 1) := by decide

/-- V-SC-1. -/
theorem test_scan :
    look (fun t => (t.trace.filter fun r => !isCapture r, t.queue, t.prev, t.dout)) 0x0C000000 (s0Raw 0x000001 0x000000) =
      some ([.evt 0 true, .led 0 0 true], [boot 0 #v[4, 0, 0, 0, 0, 0]], 0x000001, 0b10) := by decide

/-- V-SC-6: the consumer report, and CREP_CTL. -/
theorem test_scan_consumer :
    look (fun t => (t.queue, t.csr .crepCtl, t.dout)) 0x0C000000 { s0Raw 0x010000 0x000000 with layer := 1 } =
      some ([empty, .consumer 0x00E9], 0x00E90001, 0b10) := by decide

/-- V-KM-9d, read back. -/
theorem test_kmwrite :
    look (fun t => (t.keymap 6 16, t.keymap 6 15, t.km, t.status)) 0x0DD08005 s0 =
      some (0x8005, 0, [(118, 0x8005)], 0x00) := by decide

/-- V-KM-9a, V-KM-9b. -/
theorem test_kmwrite_rejected :
    look (fun t => (t.km, t.status)) 0x0D000005 s0 = some ([], 0x04) ∧
    look (fun t => (t.km, t.status)) 0x0DE00005 s0 = some ([], 0x03) := by decide

/-- V-DP-12. -/
theorem test_setlayer :
    look (fun t => (t.layer, t.status)) 0x0EC00000 s0 = some (6, 0x00) ∧
    look (fun t => (t.layer, t.status)) 0x0EE00000 { s0 with layer := 6 } = some (6, 0x03) := by decide

/-- V-DP-5, step 1. -/
theorem test_seten :
    look (fun t => (t.reportEnabled, t.queue)) 0x0F000000 { s0 with queue := [r1, r1] } = some (false, []) := by decide

/-- V-DP-11. -/
theorem test_suspend :
    look (fun t => (t.csr .link, t.queue)) 0x10000001 { s0 with queue := [r1] } = some (3, [r1]) := by decide

/-- V-DP-11: `rwa` is kept. -/
theorem test_resume : look (·.csr .link) 0x11000000 { s0 with link := ⟨true, true⟩ } = some 2 := by decide

/-- V-DP-7. -/
theorem test_txdone :
    look (fun t => (t.sender, t.csr .qstat)) 0x12000000 { s0 with sender := .wait 1000 } = some (.idle, 0) := by decide

/-- Program C, line 12: SENDER_BUSY and LEN. -/
theorem test_rdreg_qstat :
    look (·.dout) 0x13000009 { s0 with
      queue := [r1, r1]
      sender := .wait 105 } = some 0x00000102 := by decide

/-- V-DP-12: the status as it stood, then OK; an unassigned number. -/
theorem test_rdreg_status :
    look (fun t => (t.dout, t.status)) 0x13000000 { s0 with status := 0x03 } = some (3, 0x00) ∧
    look (fun t => (t.dout, t.status)) 0x1300000B { s0 with dout := 3 } = some (3, 0x03) := by decide

/-! ### The Sender, the fatal state, a step -/

/-- V-DP-7, step 1, and V-DP-10. -/
theorem test_sender_pop :
    ((nextOf (runEvent (.sender 1000 true) { s0 with queue := [r1] })).map fun t => (t.trace, t.csr .qstat)) =
      some ([.tx 1 [0, 4, 5, 6, 0, 0, 0]], 0x00000100) ∧
    ((nextOf (runEvent (.sender 7 true) { s0 with
      queue := [r1, r1]
      link := ⟨true, false⟩ })).map fun t => (t.trace, t.queue, t.sender)) = some ([.wake], [], .idle) := by decide

/-- V-DP-9: the timeout across the wrap. -/
theorem test_sender_timeout :
    ((nextOf (runEvent (.sender 0x00000033 true) { s0 with sender := .wait 0xFFFFFFD0 })).map fun t =>
      (t.trace, t.sender)) = some ([], .wait 0xFFFFFFD0) ∧
    ((nextOf (runEvent (.sender 0x00000034 true) { s0 with sender := .wait 0xFFFFFFD0 })).map fun t =>
      (t.trace, t.sender)) = some ([.log 0x01], .idle) := by decide

/-- V-EX-2: in the fatal state an illegal word is FATAL too, and a reset with INIT_OK = 1 leaves it. -/
theorem test_fatal :
    look (fun t => (t.status, t.dout)) 0x00000000 { s0 with fatal := true } = some (0x05, 0) ∧
    look (fun t => (t.status, t.dout)) 0x13000000 { s0 with fatal := true } = some (0x05, 0) ∧
    (State.applyReset true { s0 with fatal := true }).fatal = false := by decide

/-- V-AS-8: the repeat across the wrap of NOW, at a difference of 500 and of 501. -/
theorem test_repeat_wrap :
    consumerStep ⟨true, 0x00E9, 0xFFFFFF00, 0xFFFFFF00⟩ 0x00E9 0x000000F4 =
      (none, ⟨true, 0x00E9, 0xFFFFFF00, 0xFFFFFF00⟩) ∧
    consumerStep ⟨true, 0x00E9, 0xFFFFFF00, 0xFFFFFF00⟩ 0x00E9 0x000000F5 =
      (some (.consumer 0x00E9), ⟨true, 0x00E9, 0xFFFFFF00, 0x000000F5⟩) := by decide

/-- A word placed by `withFetchWord` is what the next step runs, from reset. -/
theorem test_step_from_reset :
    ((nextOf (step (State.reset.withFetchWord 32 0x04007104))).map fun t => (t.dout, t.status, t.pending)) =
      some (1, 0x00, []) := by decide

/-- R116, R117: the statements of the spec's programs assemble to their words. -/
theorem test_assembly :
    (Statement.mk .kmwrite [.num 1, .num 0, .num 0x7104] none none).word = some 0x0D207104 ∧
    (Statement.mk .mkcombo [.num 0x80, .num 0x0A00] none none).word = some 0x07000A80 ∧
    (Statement.mk .rdreg [.csr .qstat] none none).word = some 0x13000009 := by decide

/-- R90, R348, R350: the duty of a split cycle, kept and broken. -/
theorem test_cycle_duty :
    keepsCycleDuty fixture none
      [.command 0x02000000 { Inputs.zero with din0 := 0x7 }, .command 0x0A200000 { Inputs.zero with din0 := 0x7 },
       .command 0x0B000000 Inputs.zero, .command 0x0D207104 Inputs.zero] = true ∧
    keepsCycleDuty fixture none
      [.command 0x02000000 { Inputs.zero with din0 := 0x7 }, .command 0x0D207104 Inputs.zero] = false ∧
    keepsCycleDuty fixture none
      [.command 0x02000000 { Inputs.zero with din0 := 0x7 }, .command 0x0A200000 { Inputs.zero with din0 := 0x6 }] =
        false := by decide

/-! ### Witnesses: states and operands that meet the hypotheses of each statement -/

def fatalState : State := { s0 with fatal := true }

/-- A configuration that breaks R7: `KC_NO` in the modifier range. -/
def badConfig : State := { s0 with cfg := { fixture with kcNo := 0x00E0 } }

/-- PseudoInstructionWords: a statement that stands for a command. -/
theorem witness_statement : (Statement.mk .rdreg [.csr .qstat] none none).instr = some (.rdreg 9) := by decide

/-- EncodeOfDecodeIsTheWord. -/
theorem witness_encode_of_decode : decode 0x0DD08005 = .ok (.kmwrite 6 16 0x8005) := by decide

/-- StepRunsTheDecodedCommand, one state per clause: a command, the two kinds of word that are no command, a turn of
the Sender, a reset, nothing scheduled, a word of the opcode table. -/
theorem witness_step_clauses :
    s0.cfg.valid = true ∧
    (∃ s : State, s.cfg.valid = true ∧ s.pending = [.command 0x0C000000 Inputs.zero] ∧
      decode 0x0C000000 = .ok .scan) ∧
    (∃ s : State, s.cfg.valid = true ∧ s.pending = [.command 0x14000000 Inputs.zero] ∧
      decode 0x14000000 = .error .illegalOpcode) ∧
    (∃ s : State, s.cfg.valid = true ∧ s.pending = [.command 0x01000001 Inputs.zero] ∧
      decode 0x01000001 = .error .reserved) ∧
    (∃ s : State, s.cfg.valid = true ∧ s.pending = [.sender 0 true]) ∧
    (∃ s : State, s.cfg.valid = true ∧ s.pending = [.reset true]) ∧ s0.pending = [] ∧
    decodeTableWord 32 0x13000009 = some (.rdreg 9) :=
  ⟨by decide, ⟨{ s0 with pending := [.command 0x0C000000 Inputs.zero] }, by decide, rfl, by decide⟩,
    ⟨{ s0 with pending := [.command 0x14000000 Inputs.zero] }, by decide, rfl, by decide⟩,
    ⟨{ s0 with pending := [.command 0x01000001 Inputs.zero] }, by decide, rfl, by decide⟩,
    ⟨{ s0 with pending := [.sender 0 true] }, by decide, rfl⟩,
    ⟨{ s0 with pending := [.reset true] }, by decide, rfl⟩, rfl, by decide⟩

/-- OnlyInvalidConfigurationIsRefused: a configuration that breaks R7, and one that meets it. -/
theorem witness_bad_configuration : badConfig.cfg.valid = false ∧ ¬ ParametersMeetR7 badConfig.cfg :=
  ⟨by decide, fun h => h.2.2.2.1 (by decide)⟩

theorem reference_codes_are_no_combo : ∀ x : KeyCode, x.toNat < 0x7000 → x &&& 0x7000 ≠ 0x7000 := by
  intro x hx e
  have h : (x &&& 0x7000).toNat ≤ x.toNat := by
    rw [BitVec.toNat_and]
    exact Nat.and_le_left
  rw [e] at h
  exact absurd (Nat.lt_of_le_of_lt h hx) (by decide)

theorem witness_configuration : s0.cfg.valid = true ∧ ParametersMeetR7 s0.cfg := by
  have lo : s0.cfg.kcLeftCtrl.toNat = 0xE0 ∧ s0.cfg.kcRightGui.toNat = 0xE7 ∧
      (s0.cfg.consumerSrc[0]).toNat = 0xA8 ∧ (s0.cfg.consumerSrc[17]).toNat = 0xBE ∧ s0.cfg.kcNo = 0 := by decide
  obtain ⟨h1, h2, h3, h4, h5⟩ := lo
  refine ⟨by decide, ?_, ?_, ?_, ?_, ?_, ?_, by decide⟩
  all_goals simp only [h1, h2, h3, h4, h5]
  · omega
  · rintro x ⟨⟨a, b⟩, c, d⟩
    omega
  · decide
  · decide
  · intro x hx
    have hlt : x.toNat < 0x7000 := by
      rcases hx with ⟨a, b⟩ | ⟨a, b⟩ | rfl
      · omega
      · omega
      · decide
    exact ⟨hlt, reference_codes_are_no_combo x hlt⟩

/-- RejectedCommandChangesOnlyStatus. -/
theorem witness_rejected :
    (nextOf (exec (.setlayer 7) s0)).map (·.status) = some 0x03 ∧
    (nextOf (exec .filter fatalState)).map (·.status) = some 0x05 := by decide

/-- DataConditionsRaiseNoStatus, at the ends of the operand ranges. -/
theorem witness_data_conditions :
    (Instr.kmwrite 6 16 0x8005).wellFormed = true ∧ (Instr.kmwrite 1 0 0).wellFormed = true ∧
    (Instr.rdreg 0x0A).wellFormed = true ∧ s0.fatal = false := by decide

/-- FatalStateOnlyLeavesByReset, and the clause `FatalRejects` of every command's statement. -/
theorem witness_fatal : fatalState.fatal = true := by decide

/-- The hypothesis `s.fatal = false` alone: FILTER, ISCOMBO, BASE, MODMASK, MKCOMBO, ComboRoundTrip, CLASSIFY, SUSPEND,
RESUME, SETEN, TXDONE, SCAN, ScanIsTheSplitCycle. -/
theorem witness_not_fatal : s0.fatal = false := by decide

/-- The clause `CommandWord` of every command's statement: a word of each opcode whose must-be-0 bits are 0, and one
with the lowest or the highest of them set (KMWRITE has none). -/
theorem witness_command_words :
    ([(0x01, 0x00FFFFFF, 0x01000000, 0x01000001), (0x02, 0x00FFFFFF, 0x02000000, 0x02800000),
      (0x03, 0x0000FFFF, 0x03FF0000, 0x03000001), (0x04, 0x00FF0000, 0x0400FFFF, 0x04010000),
      (0x05, 0x00FF0000, 0x0500FFFF, 0x05800000), (0x06, 0x00FF0000, 0x0600FFFF, 0x06010000),
      (0x07, 0x00FFF000, 0x07000FFF, 0x07001000), (0x08, 0x00FF0000, 0x0800FFFF, 0x08800000),
      (0x09, 0x00FF0000, 0x0900FFFF, 0x09010000), (0x0A, 0x001FFFFF, 0x0AE00000, 0x0A100000),
      (0x0B, 0x00FFFFFF, 0x0B000000, 0x0B000001), (0x0C, 0x00FFFFFF, 0x0C000000, 0x0C800000),
      (0x0E, 0x001FFFFF, 0x0EE00000, 0x0E000001), (0x0F, 0x00FFFFFE, 0x0F000001, 0x0F000002),
      (0x10, 0x00FFFFFE, 0x10000001, 0x10800000), (0x11, 0x00FFFFFF, 0x11000000, 0x11000001),
      (0x12, 0x00FFFFFF, 0x12000000, 0x12800000), (0x13, 0x00FFFF00, 0x130000FF, 0x13000100)] :
      List (BitVec 8 × Word × Word × Word)).all (fun (opc, zeros, good, bad) =>
        good.extractLsb' 24 8 == opc && good &&& zeros == 0 && bad.extractLsb' 24 8 == opc && bad &&& zeros != 0) =
      true := by decide

theorem witness_kmwrite_word : (0x0DFFFFFF : Word).extractLsb' 24 8 = 0x0D ∧ (0x0DFFFFFF : Word) &&& 0 = 0 := by decide

/-- DiffEmitsOneEventPerChangedKey: the state, the sample, the reference map. -/
theorem witness_diff :
    (s0At 0xFF000006 0 0).fatal = false ∧ (0x000006 : Sample) = (s0At 0xFF000006 0 0).inp.din0.extractLsb' 0 24 ∧
    s0.cfg.keyBitMap = Config.reference.keyBitMap := by decide

/-- ExtraSampleBitsChangeNothing: samples that differ in bits 17..23 alone. -/
theorem witness_extra_bits :
    s0.cfg.keyBitMap = Config.reference.keyBitMap ∧ s0.fatal = false ∧
    s0.prev.extractLsb' 0 17 = (0xFE0000 : Sample).extractLsb' 0 17 ∧
    (s0Raw 1 1).inp.raw0.extractLsb' 0 17 = (0x020001 : Sample).extractLsb' 0 17 ∧
    (s0Raw 1 1).inp.raw1.extractLsb' 0 17 = (0x800001 : Sample).extractLsb' 0 17 ∧
    (s0At 1 0 0).inp.din0.extractLsb' 0 17 = (0xFFFE0001 : Word).extractLsb' 0 17 := by decide

/-- ResolveReadsTheEntry: the last entry; each way out of range. -/
theorem witness_resolve :
    ((6 : BitVec 3).toNat < 7 ∧ (16 : BitVec 5).toNat < 17 ∧ s0.fatal = false) ∧ (7 : BitVec 3).toNat = 7 ∧
    17 ≤ (17 : BitVec 5).toNat := by decide

/-- KmwriteSetsOneEntry: the first and the last writable entry, an entry that is another one, layer 0. -/
theorem witness_kmwrite :
    ((1 : BitVec 3).toNat < 7 ∧ (0 : BitVec 5).toNat < 17 ∧ (1 : BitVec 3).toNat ≠ 0 ∧ s0.fatal = false) ∧
    ((6 : BitVec 3).toNat < 7 ∧ (16 : BitVec 5).toNat < 17 ∧ (6 : BitVec 3).toNat ≠ 0) ∧
    ((0, 0) : Fin 7 × Fin 17) ≠ (1, 0) ∧ (7 : BitVec 3).toNat = 7 ∧ 17 ≤ (17 : BitVec 5).toNat := by decide

/-- LayerZeroIsNeverWritten: a command that is no KMWRITE, and a KMWRITE that ends with OK. -/
theorem witness_layer_zero :
    (nextOf (exec .filter s0)).map (·.status) = some 0x00 ∧
    (nextOf (exec (.kmwrite 1 0 0x7104) s0)).map (·.status) = some 0x00 := by decide

/-- ClassifyNumbersTheClasses: the reference values. -/
theorem witness_classify :
    s0.cfg.kcNo = 0 ∧ s0.cfg.kcLeftCtrl = 0x00E0 ∧ s0.cfg.kcRightGui = 0x00E7 ∧
    s0.cfg.consumerSrc = Config.reference.consumerSrc := by decide

/-- CxlateTranslatesTheTable: a code of the table, its first and its last, and one outside. -/
theorem witness_cxlate :
    s0.fatal = false ∧ s0.cfg.valid = true ∧ (0x00A8 : KeyCode) = s0.cfg.consumerSrc[0] ∧
    (0x00BE : KeyCode) = s0.cfg.consumerSrc[17] ∧ ∀ i : Fin 18, (0x00AD : KeyCode) ≠ s0.cfg.consumerSrc[i] := by decide

/-- AssembleBuildsTheBatch, PrimaryReportCarriesTheModifier, OnePrimaryReportEveryCycle: a layer in range, no key. -/
theorem witness_assemble :
    (6 : BitVec 3).toNat < 7 ∧ s0.fatal = false ∧ s0.inp.din0.extractLsb' 0 17 = 0 := by decide

/-- BootReportAndResetPulse, FullKeyBitmapHoldsTheCodes: N = 6 and N = 7 (V-AS-9). -/
theorem witness_report_modes :
    (contributions fixture (codesOf (s0At 0x3F 0 0) 1 0x3F)).regular.length = 6 ∧
    (contributions fixture (codesOf (s0At 0x7F 0 0) 1 0x7F)).regular.length = 7 := by decide

/-- ConsumerStateMachineCases: a running repeat at 500 and 501 ms (R207), the two kinds of new press, a release. -/
theorem witness_consumer :
    ¬ (500 < ((500 : Word) - 0).toNat ∧ 200 < ((500 : Word) - 0).toNat) ∧
    (500 < ((501 : Word) - 0).toNat ∧ 200 < ((501 : Word) - 300).toNat) ∧
    (0x00E9 : Usage) ≠ 0 ∧ (0x00E2 : Usage) ≠ 0x00E9 ∧ State.reset.crs.active = false := by decide

/-- KeyboardPayloadLayouts: the ends of the bitmap's range. -/
theorem witness_payload : 4 ≤ (4 : Byte).toNat ∧ (123 : Byte).toNat ≤ 123 := by decide

/-- WirePayloadDeterminesTheReport. -/
theorem witness_wire : (wire fixture r1).2 = (wire Config.reference r1).2 := by decide

/-- DispatchQueuesAndDropsSilently and FullQueueDropsSilently, with the queue full; DispatchWhileSuspended, both
clauses, and PressWhileSuspendedRequestsOneWakeup; DispatchWhileDisabledDrains. -/
theorem witness_dispatch :
    (s0.fatal = false ∧ s0.reportEnabled = true ∧ s0.link.suspended = false ∧ (List.replicate 10 r1).length ≤ 10) ∧
    (∃ s : State, s.fatal = false ∧ s.reportEnabled = true ∧ s.link.suspended = true ∧ s.link.rwa = true ∧
      s.cycPress = true) ∧
    (∃ s : State, s.fatal = false ∧ s.reportEnabled = true ∧ s.link.suspended = true ∧
      ¬ (s.link.rwa = true ∧ s.cycPress = true)) ∧
    (∃ s : State, s.fatal = false ∧ s.reportEnabled = false) :=
  ⟨by decide, ⟨{ s0 with
      link := ⟨true, true⟩
      cycPress := true }, by decide⟩, ⟨{ s0 with link := ⟨true, true⟩ }, by decide⟩,
    ⟨{ s0 with reportEnabled := false }, by decide⟩⟩

/-- SetlayerSelectsTheLayer, at the ends of the range. -/
theorem witness_setlayer : (0 : BitVec 3).toNat < 7 ∧ (6 : BitVec 3).toNat < 7 ∧ s0.fatal = false := by decide

/-- RdregReadsTheRegister: the last assigned number and the first unassigned one, a full queue, a batch of three. -/
theorem witness_rdreg :
    (10 : BitVec 8).toNat ≤ 10 ∧ 10 < (11 : BitVec 8).toNat ∧ s0.fatal = false ∧
    (List.replicate 10 r1).length ≤ 10 ∧ (List.replicate 3 r1).length ≤ 3 := by decide

/-- NoReportEntersWhileSuspended. -/
theorem witness_suspended :
    (nextOf (exec .scan { s0Raw 1 1 with link := ⟨true, false⟩ })).map (·.queue) = some [] := by decide

/-- CapturesClockMsbFirst: the first and the last bit, and two equal captures. -/
theorem witness_capture : (0 < 3 ∧ 0 < 8) ∧ (2 < 3 ∧ 7 < 8) ∧ clockedBits 0x800001 = clockedBits 0x800001 := by decide

/-- PopTransmitsTheHead, both clauses; PopWhileSuspendedDrains. -/
theorem witness_pop :
    (∃ s : State, s.fatal = false ∧ s.sender = .idle ∧ s.queue = [r1] ∧ s.link.suspended = false) ∧
    (∃ s : State, s.sender = .wait 1000) ∧
    (∃ s : State, s.fatal = false ∧ s.sender = .idle ∧ s.queue = [r1] ∧ s.link.suspended = true) :=
  ⟨⟨{ s0 with queue := [r1] }, by decide⟩, ⟨{ s0 with sender := .wait 1000 }, by decide⟩,
    ⟨{ s0 with
      queue := [r1]
      link := ⟨true, false⟩ }, by decide⟩⟩

/-- SenderTimesOutOrBlocks: 100 ms and 99 ms (V-DP-8), and an empty queue. -/
theorem witness_sender :
    s0.fatal = false ∧ 100 ≤ ((1100 : Word) - 1000).toNat ∧ ((1099 : Word) - 1000).toNat < 100 ∧ s0.sender = .idle ∧
    s0.queue = [] ∧ (∃ s : State, s.fatal = false ∧ s.sender = .wait 1000) :=
  ⟨by decide, by decide, by decide, rfl, rfl, ⟨{ s0 with sender := .wait 1000 }, by decide⟩⟩

/-- TransmissionIsFifo, WakeupsOnlyWhileSuspended, EntriesLeaveOnlyByPopOrDrain: one event of each kind that moves the
queue or asks for a wakeup. -/
theorem witness_events :
    ((nextOf (runEvent (.command 0x0C000000 Inputs.zero) s0)).map fun t => t.queue) = some [empty] ∧
    ((nextOf (runEvent (.sender 5 true) { s0 with queue := [r1, empty] })).map fun t => (t.queue, t.sender)) =
      some ([empty], .wait 5) ∧
    ((nextOf (runEvent (.sender 5 false) { s0 with
      queue := [r1, empty]
      link := ⟨true, false⟩ })).map fun t => (t.queue, t.trace)) = some ([], [.wake, .log 0x02]) ∧
    ((nextOf (runEvent (.reset true) { s0 with queue := [r1] })).map fun t => t.queue) = some [] := by decide

/-- SenderCommutesWithDiffAndAssemble: both commands, while the Sender has a report to send. -/
theorem witness_commute :
    ((nextOf (exec .diff { s0At 1 0 0 with queue := [r1] })).map (·.prev)) = some 1 ∧
    ((nextOf (exec (.assemble 1) { s0At 1 0 0 with queue := [r1] })).map (·.dout)) = some 1 := by decide

/-- SingleWriterOfTheScanState, OnlyOwnersWriteTheRest: a command that owns none of it, and one that keeps DOUT. -/
theorem witness_owner :
    (nextOf (exec (.rdreg 0) s0)).map (·.status) = some 0x00 ∧
    (nextOf (exec (.kmwrite 1 0 5) { s0 with dout := 9 })).map (·.dout) = some 9 := by decide

/-- ResetSetsEveryElement, and an entry of the last layer. -/
theorem witness_reset :
    ((nextOf (runEvent (.reset false) { s0 with km := [(118, 0x8005)] })).map fun t => (t.fatal, t.keymap 6 16)) =
      some (true, 0) ∧ (6 : Fin 7) ≠ 0 := by decide

/-- ResetMeetsTheInvariant. -/
theorem witness_reset_inv : s0.cfg.valid = true := by decide

/-- StepKeepsTheInvariant: a state that meets the invariant with every clause in play, and a step from it. -/
theorem witness_inv :
    ∃ s : State, s.Inv ∧ (nextOf (step s)).isSome = true ∧ s.km ≠ [] ∧ s.crs.active = true ∧ s.cycPress = true :=
  ⟨{ s0 with
      pending := [.sender 5 true]
      km := [(17, 0x7104), (118, 0x8005)]
      queue := List.replicate 10 r1
      batch := [resetPulse, empty, .consumer 0x00E9]
      crs := ⟨true, 0x00E9, 0, 0⟩
      prev := 0x000001
      cycPress := true },
    { cfg := by decide
      km := by decide
      queue := by decide
      batch := .pulseConsumer empty rfl 0x00E9
      status := by decide
      repeatKey := by decide
      press := by decide
      fatal := fun h => absurd h (by decide) },
    by decide, by decide, rfl, rfl⟩

/-- FatalStateOnlyLeavesByReset, its fault-state clauses: the state right after a reset with INIT_OK = 0, whose STATUS is OK; a state that is not
fatal, and the two resets. -/
theorem witness_fault_state :
    ((nextOf (runEvent (.reset false) s0)).map fun t => (t.status, t.fault?, t.treatment)) =
      some (0x00, some .fatal, .fault) ∧
    ((nextOf (runEvent (.reset true) fatalState)).map fun t => (t.fault?, t.treatment)) = some (none, .accepted) ∧
    ((nextOf (exec (.setlayer 7) s0)).map (·.treatment)) = some .refusal ∧ fatalState.treatment = .fault ∧
    s0.treatment ≠ .fault := by decide

/-- TransmittedBytesOfEachKind: a state for each kind of report at the head of the queue; R129, low byte first. -/
theorem witness_transmitted :
    (s0.fatal = false ∧ s0.sender = .idle ∧ s0.link.suspended = false) ∧
    (∃ s : State, s.queue = [r1] ∧ s.sender = .idle) ∧ (∃ s : State, s.queue = [resetPulse] ∧ s.sender = .idle) ∧
    ((nextOf (runEvent (.sender 0 true) { s0 with queue := [.consumer 0x018A] })).map (·.trace)) =
      some [.tx 3 [0x8A, 0x01]] :=
  ⟨by decide, ⟨{ s0 with queue := [r1] }, by decide⟩, ⟨{ s0 with queue := [resetPulse] }, by decide⟩, by decide⟩

end Sys2Proof.Tests
end

section
/-! PROOFS. The statements of 20_memory.md: who writes the keymap and the scan state, what a push onto a full queue
does, and that reports leave in the order they were pushed. -/

namespace Sys2Proof.Machine

open Sys2Proof.Claims

/-! ### What a command leaves alone -/

/-- A view of the state that no STATUS write and no effect of the command changes is the same after it, rejected or
not. -/
theorem Ran.frame {α : Type} (f : State → α) {i : Instr} {s t : State}
    (hstatus : ∀ st u, f (State.setStatus st u) = f u) (hbody : ∀ u, Body s i u → f u = f s) (h : Ran i s t) : f t = f s := by
  obtain ⟨st, -, -, rfl⟩ | ⟨-, u, hb, rfl⟩ := h
  · exact hstatus st s
  · exact (hstatus .ok u).trans (hbody u hb)

/-- A command that ends with STATUS = OK was not rejected: it took its effect. -/
theorem Ran.body_of_status_ok {i : Instr} {s t : State} (h : Ran i s t) (hok : t.status = 0x00) :
    ∃ u, Body s i u ∧ t = u.setStatus .ok := by
  obtain ⟨st, hst, -, rfl⟩ | ⟨-, u, hb, rfl⟩ := h
  · exact absurd hok (Status.code_ne_zero hst)
  · exact ⟨u, hb, rfl⟩

/-- No command writes the configuration. -/
theorem Body.cfg_eq {i : Instr} {s u : State} (h : Body s i u) : u.cfg = s.cfg := by
  cases h with
  | seten b => cases b <;> rfl
  | dispatch => simp
  | scan => simp
  | _ => rfl

/-- KMWRITE is the keymap's one writer. -/
theorem Body.km_eq {i : Instr} {s u : State} (h : Body s i u) (hi : ∀ l k v, i ≠ .kmwrite l k v) : u.km = s.km := by
  cases h with
  | kmwrite => exact absurd rfl (hi _ _ _)
  | seten b => cases b <;> rfl
  | dispatch => simp
  | scan => simp
  | _ => rfl

/-- DIFF and SCAN are the writers of `prev`. -/
theorem Body.prev_eq {i : Instr} {s u : State} (h : Body s i u) (hdiff : i ≠ .diff) (hscan : i ≠ .scan) :
    u.prev = s.prev := by
  cases h with
  | diff => exact absurd rfl hdiff
  | scan => exact absurd rfl hscan
  | seten b => cases b <;> rfl
  | dispatch => simp
  | _ => rfl

/-- ASSEMBLE and SCAN are the writers of the assembler's state. -/
theorem Body.useFullKey_crs_eq {i : Instr} {s u : State} (h : Body s i u) (hassemble : ∀ l, i ≠ .assemble l)
    (hscan : i ≠ .scan) : u.useFullKey = s.useFullKey ∧ u.crs = s.crs := by
  cases h with
  | assemble => exact absurd rfl (hassemble _)
  | scan => exact absurd rfl hscan
  | seten b => cases b <;> exact ⟨rfl, rfl⟩
  | dispatch => simp
  | _ => exact ⟨rfl, rfl⟩

/-- A turn of the Sender writes none of the scan state. -/
theorem senderStep_scanState (s : State) :
    (senderStep s).prev = s.prev ∧ (senderStep s).useFullKey = s.useFullKey ∧ (senderStep s).crs = s.crs := by
  obtain ⟨_, _, -, -, -, -, h⟩ | ⟨-, -, -, -, h⟩ | ⟨_, -, -, -, h⟩ | h := senderStep_cases s <;> rw [h] <;>
    exact ⟨rfl, rfl, rfl⟩

/-! ### The keymap -/

/-- The entries are read from the configuration and the storage alone. -/
theorem keymap_congr {s t : State} (hcfg : t.cfg = s.cfg) (hkm : t.km = s.km) : t.keymap = s.keymap := by
  funext l k
  rw [State.keymap, State.keymap, hcfg, hkm]

/-- `KmWrite` on the entries: the one named takes the code, every other keeps its own (R72). -/
theorem keymap_writeKeymap (s : State) (l l' : Fin totalLayers) (k k' : Fin numKeys) (v : KeyCode) :
    (s.writeKeymap l k v).keymap l' k' = if l' = l ∧ k' = k then v else s.keymap l' k' := by
  split
  case isTrue h =>
    obtain ⟨rfl, rfl⟩ := h
    exact Memory.read_write_same _ _ _ _
  case isFalse h => exact Memory.read_write_other _ _ _ fun hindex => h (linearIndex_inj hindex)

/-- The entry KMWRITE writes is the one its fields name. -/
theorem asWritableEntry_val {layer : BitVec 3} {key : BitVec 5} {l : Fin totalLayers} {k : Fin numKeys}
    (h : asWritableEntry layer key = .ok (l, k)) : l.val = layer.toNat ∧ k.val = key.toNat := by
  by_cases hrange : layer.toNat < 7 ∧ key.toNat < 17
  · obtain ⟨hl, hk⟩ := hrange
    by_cases h0 : layer.toNat = 0
    · rw [asWritableEntry_readonly h0 hk] at h
      cases h
    · rw [asWritableEntry_ok h0 hl hk] at h
      cases h
      exact ⟨rfl, rfl⟩
  · rw [asWritableEntry_range hrange] at h
    cases h

/-- KMWRITE's effect on the entries, by the numbers in its word. -/
theorem Body.keymap_kmwrite {layer : BitVec 3} {key : BitVec 5} {code : KeyCode} {s u : State}
    (h : Body s (.kmwrite layer key code) u) (l : Fin totalLayers) (k : Fin numKeys) :
    u.keymap l k = if l.val = layer.toNat ∧ k.val = key.toNat then code else s.keymap l k := by
  cases h with
  | kmwrite _ l₀ k₀ hw =>
    obtain ⟨hl, hk⟩ := asWritableEntry_val hw
    rw [keymap_writeKeymap, ← hl, ← hk]
    simp only [Fin.ext_iff]

/-- No command's effect reaches layer 0: KMWRITE's check rejects it, and no other command writes the keymap. -/
theorem Body.keymap_layer0 {i : Instr} {s u : State} (h : Body s i u) (k : Fin numKeys) :
    u.keymap 0 k = s.keymap 0 k := by
  by_cases hi : ∀ l k v, i ≠ .kmwrite l k v
  · rw [keymap_congr h.cfg_eq (h.km_eq hi)]
  · push Not at hi
    obtain ⟨layer, key, code, rfl⟩ := hi
    cases h with
    | kmwrite _ l₀ k₀ hw =>
      have hne : l₀ ≠ 0 := asWritableEntry_ne_zero hw
      rw [keymap_writeKeymap, if_neg fun hentry => hne hentry.1.symm]

/-! ### DISPATCH and the full queue -/

/-- DISPATCH outside the fatal state. -/
theorem exec_dispatch {s : State} (h : s.fatal = false) :
    exec .dispatch s = .next (((dispatchStep s).setDout (boolWord s.wakes)).setStatus .ok) := by
  rw [exec, execDispatch, runPlain_ok _ h]

/-- No wakeup is requested while the link is active (R235). -/
theorem wakes_of_active {s : State} (h : s.link.suspended = false) : s.wakes = false := by simp [State.wakes, h]

/-! ### The TX stream: only the Sender's POP writes it -/

theorem txs_append (a b : List Record) : txs (a ++ b) = txs a ++ txs b := List.filterMap_append

@[simp] theorem txs_wakeRecords (ok : Bool) : txs (wakeRecords ok) = [] := by cases ok <;> rfl

@[simp] theorem txs_txRecord (cfg : Config) (r : HidReport) : txs [txRecord cfg r] = [wire cfg r] := rfl

/-- The records of a diff are key events and LED calls (R150, R151). -/
theorem mem_diffRecords {cfg : Config} {prev curr : Sample} {r : Record} (h : r ∈ diffRecords cfg prev curr) :
    (∃ k pressed, r = .evt k pressed) ∨ ∃ row col pressed, r = .led row col pressed := by
  obtain ⟨k, -, hr⟩ := List.mem_flatMap.1 h
  obtain rfl | hr := List.mem_cons.1 hr
  · exact .inl ⟨_, _, rfl⟩
  · unfold ledRecords at hr
    split at hr
    · exact .inr ⟨_, _, _, List.mem_singleton.1 hr⟩
    · cases hr

@[simp] theorem txs_diffRecords (cfg : Config) (prev curr : Sample) : txs (diffRecords cfg prev curr) = [] := by
  refine List.filterMap_eq_nil_iff.2 fun r hr => ?_
  obtain ⟨_, _, rfl⟩ | ⟨_, _, _, rfl⟩ := mem_diffRecords hr <;> rfl

/-- DISPATCH's records are those of a wakeup request, if any. -/
theorem txs_dispatchStep (s : State) : txs (dispatchStep s).trace = txs s.trace := by
  rw [dispatchStep_trace, txs_append]
  split
  · simp
  · simp [txs]

/-- The phases of SCAN before dispatch emit captures, key events and LED calls. -/
theorem txs_scanAssemble (s : State) : txs (scanAssemble s).trace = txs s.trace := by
  simp only [scanAssemble, assembleStep_trace, diffStep_trace, captureStep_trace, txs_append, txs_diffRecords]
  simp [txs]

/-- No command transmits. -/
theorem Body.txs_eq {i : Instr} {s u : State} (h : Body s i u) : txs u.trace = txs s.trace := by
  cases h with
  | diff => simp [txs_append]
  | seten b => cases b <;> rfl
  | dispatch => exact txs_dispatchStep s
  | scan => exact (txs_dispatchStep _).trans (txs_scanAssemble s)
  | _ => rfl

/-! ### The queue's order -/

/-- DISPATCH keeps the queue and its batch in order, and may drop from either: from the queue by a drain, from the
batch when the queue is full. -/
theorem dispatchStep_queue_sublist (s : State) : (dispatchStep s).queue.Sublist (s.queue ++ s.batch) := by
  rw [dispatchStep_queue]
  split
  · exact List.nil_sublist _
  · split
    · exact List.sublist_append_left _ _
    · exact pushAll_sublist _ _

/-- After a command the queue is, in order, a part of what stood in it and then what the command handed over. -/
theorem Body.queue_sublist {w : Word} {p : Inputs} {i : Instr} {s u : State} (hdecode : decode w = .ok i)
    (h : Body { s with inp := p } i u) : u.queue.Sublist (s.queue ++ handedOver s (.command w p)) := by
  cases h with
  | dispatch =>
    have hbatch : handedOver s (.command w p) = s.batch := by simp [handedOver, hdecode]
    rw [hbatch]
    exact dispatchStep_queue_sublist { s with inp := p }
  | scan =>
    have hbatch : handedOver s (.command w p) = (scanAssemble { s with inp := p }).batch := by
      simp [handedOver, hdecode]
    rw [hbatch]
    exact dispatchStep_queue_sublist (scanAssemble { s with inp := p })
  | seten b =>
    cases b with
    | true => exact List.sublist_append_left _ _
    | false => exact List.nil_sublist _
  | _ => exact List.sublist_append_left _ _

/-- What `Obligations.TransmissionIsFifo` says of one event from `s` to `t`. -/
def SendsInOrder (e : Event) (s t : State) : Prop :=
  ∃ sent : List HidReport,
    txs t.trace = txs s.trace ++ sent.map (wire s.cfg) ∧ (sent ++ t.queue).Sublist (s.queue ++ handedOver s e) ∧
    sent.length ≤ 1 ∧
    (sent ≠ [] → s.sender = .idle ∧ s.link.suspended = false ∧ ∃ now ok, e = .sender now ok ∧ t.sender = .wait now)

/-- An event that transmits nothing need only keep the queue's order. -/
theorem sendsInOrder_of_txs_eq {e : Event} {s t : State} (htxs : txs t.trace = txs s.trace)
    (hqueue : t.queue.Sublist (s.queue ++ handedOver s e)) : SendsInOrder e s t :=
  ⟨[], by simp [htxs], hqueue, Nat.zero_le 1, fun h => absurd rfl h⟩

theorem Ran.sendsInOrder {w : Word} {p : Inputs} {i : Instr} {s t : State} (hdecode : decode w = .ok i)
    (h : Ran i { s with inp := p } t) : SendsInOrder (.command w p) s t := by
  obtain ⟨st, -, -, rfl⟩ | ⟨-, u, hb, rfl⟩ := h
  · exact sendsInOrder_of_txs_eq rfl (List.sublist_append_left _ _)
  · have hqueue : u.queue.Sublist (s.queue ++ handedOver s (.command w p)) := hb.queue_sublist hdecode
    exact sendsInOrder_of_txs_eq hb.txs_eq hqueue

/-- A turn of the Sender: a POP with the link active transmits the head and waits; every other step transmits
nothing, and leaves the queue or drains it (R241 to R244). -/
theorem senderStep_sendsInOrder (now : Word) (ok : Bool) (s : State) :
    SendsInOrder (.sender now ok) s (senderStep { s with inp := s.inp.forSender now ok }) := by
  obtain ⟨r, q, -, hidle, hqueue, hactive, heq⟩ | ⟨-, -, -, -, heq⟩ | ⟨_, -, -, -, heq⟩ | heq :=
    senderStep_cases { s with inp := s.inp.forSender now ok } <;> rw [heq]
  case inl =>
    have hhead : s.queue = r :: q := hqueue
    refine ⟨[r], txs_append _ _, ?_, le_rfl, fun _ => ⟨hidle, hactive, now, ok, rfl, rfl⟩⟩
    simp [hhead, handedOver]
  case inr.inl => exact sendsInOrder_of_txs_eq (by simp [txs_append]) (List.nil_sublist _)
  case inr.inr.inl => exact sendsInOrder_of_txs_eq (by simp [txs]) (List.sublist_append_left _ _)
  case inr.inr.inr => exact sendsInOrder_of_txs_eq rfl (List.sublist_append_left _ _)

end Sys2Proof.Machine

namespace Sys2Proof.Proofs

open Sys2Proof.Machine Sys2Proof.Claims

/-- Settles O17: of the effects a command can have, KMWRITE's alone writes the keymap, at an entry of its fields that
the check keeps out of layer 0. -/
theorem layerZeroIsNeverWritten : Obligations.LayerZeroIsNeverWritten := by
  intro i s t h
  have hran : Ran i s t := exec_next h
  refine ⟨fun k => ?_, fun hi => ?_, ?_⟩
  · exact hran.frame (fun u => u.keymap 0 k) (fun _ _ => rfl) fun _ hb => hb.keymap_layer0 k
  · exact hran.frame State.km (fun _ _ => rfl) fun _ hb => hb.km_eq hi
  · rintro layer key code rfl hok l k
    obtain ⟨u, hb, rfl⟩ := hran.body_of_status_ok hok
    exact hb.keymap_kmwrite l k

/-- Settles O51, event by event: a command keeps the queue's order and transmits nothing, a turn of the Sender
transmits at most the head, a reset empties the queue. -/
theorem transmissionIsFifo : Obligations.TransmissionIsFifo := by
  intro s t e h
  obtain ⟨w, p, i, rfl, hdecode, hran⟩ | ⟨w, p, _, _, rfl, -, rfl⟩ | ⟨now, ok, rfl, rfl⟩ | ⟨ok, rfl, rfl⟩ :=
    runEvent_next h
  · exact hran.sendsInOrder hdecode
  · exact sendsInOrder_of_txs_eq rfl (List.sublist_append_left _ _)
  · exact senderStep_sendsInOrder now ok s
  · exact sendsInOrder_of_txs_eq rfl (List.nil_sublist _)

/-- Settles O55: the frame of each command's effect, and of each thing a turn of the Sender can do. -/
theorem singleWriterOfTheScanState : Obligations.SingleWriterOfTheScanState := by
  refine ⟨fun i s t h => ⟨fun hdiff hscan => ?_, fun hassemble hscan => ?_⟩, senderStep_scanState⟩
  · exact (exec_next h).frame State.prev (fun _ _ => rfl) fun _ hb => hb.prev_eq hdiff hscan
  · have hpair : (t.useFullKey, t.crs) = (s.useFullKey, s.crs) :=
      (exec_next h).frame (fun u => (u.useFullKey, u.crs)) (fun _ _ => rfl) fun _ hb =>
        Prod.ext_iff.2 (hb.useFullKey_crs_eq hassemble hscan)
    exact Prod.ext_iff.1 hpair

/-- Settles O34: DISPATCH pushes the batch report by report, and with the link active it asks for no wakeup, so DOUT is
0 and no record is emitted. -/
theorem fullQueueDropsSilently : Obligations.FullQueueDropsSilently := by
  intro s hfatal henabled hactive
  have hwakes : s.wakes = false := wakes_of_active hactive
  have hqueue : (dispatchStep s).queue = pushAll s.queue s.batch := by simp [henabled, hactive]
  refine ⟨_, exec_dispatch hfatal, hqueue, rfl, ?_, ?_⟩
  · simp [hwakes, boolWord]
  · simp [hwakes]

end Sys2Proof.Proofs
end

section
/-! PROOFS. The statements of 30_encoding.md: the payloads of the two keyboard reports. -/

namespace Sys2Proof.Machine

/-- The empty bitmap, from which `bitmapOf` starts, holds no usage. -/
theorem bitmapBit_empty (j : Nat) : bitmapBit (Vector.replicate bitmapBytes 0) j = false := by
  have hbyte : (Vector.replicate bitmapBytes (0 : Byte)).toList.getD (j / 8) 0 = 0 := by
    rw [List.getD_eq_getElem?_getD, Vector.toList_replicate, List.getElem?_replicate]
    split <;> rfl
  rw [bitmapBit, hbyte]
  exact BitVec.getLsbD_zero

/-- The bitmap of a list of codes has bit `j` exactly when the list holds usage `j + 4` (R128, R205). -/
theorem bitmapBit_bitmapOf (regular : List Byte) {j : Nat} (hj : j < 120) :
    bitmapBit (bitmapOf regular) j = decide (∃ x ∈ regular, x.toNat = j + 4) := by
  rw [bitmapOf, bitmapBit_foldl _ _ hj, bitmapBit_empty, Bool.false_or, Bool.eq_iff_iff]
  simp

/-- The bitmap follows the modifier byte in the FullKeyKeyboard payload (R128). -/
theorem wire_fullKey_bit (cfg : Config) (m : Byte) (bitmap : Vector Byte bitmapBytes) (j : Nat) :
    ((wire cfg (.fullKey m bitmap)).2.getD (1 + j / 8) 0).getLsbD (j % 8) = bitmapBit bitmap j := by
  rw [wire, Nat.add_comm, List.getD_cons_succ, bitmapBit]

/-- A usage of the bitmap's range, as a code of the list. -/
theorem exists_usage_iff_mem {c : Byte} (h : 4 ≤ c.toNat) (regular : List Byte) :
    (∃ x ∈ regular, x.toNat = c.toNat - 4 + 4) ↔ c ∈ regular := by
  rw [Nat.sub_add_cancel h]
  simp only [BitVec.toNat_inj, exists_eq_right]

end Sys2Proof.Machine

namespace Sys2Proof.Proofs

open Sys2Proof.Machine

/-- Settles O31: both payloads are the modifier and then the fixed-length vector; a bit behind the modifier is a bit of
the bitmap, which is set exactly for the usages of the list. -/
theorem keyboardPayloadLayouts : Obligations.KeyboardPayloadLayouts := by
  intro cfg
  refine ⟨fun m v => ⟨rfl, ?_⟩, fun m v => ⟨rfl, ?_⟩, fun m c regular hlow hhigh => ?_⟩
  · exact congrArg Nat.succ v.length_toList
  · exact congrArg Nat.succ v.length_toList
  · have hj : c.toNat - 4 < 120 := by omega
    rw [wire_fullKey_bit, bitmapBit_bitmapOf regular hj, decide_eq_decide]
    exact exists_usage_iff_mem hlow regular

end Sys2Proof.Proofs
end

section
/-! PROOFS. The statements of 40_debounce.md: the edge-extension filter and FILTER. The clauses `FatalRejects` and
`CommandWord`, which every command's statement has, are proved here once for all commands. -/

namespace Sys2Proof

/-- The "must be 0" bits of each format, as a mask (R101 to R108); `reservedIsZero_iff` ties it to the decoder. -/
def Format.reservedMask : Format → Word
  | .fn => 0x00FFFFFF
  | .flk => 0x0000FFFF
  | .flkc => 0
  | .fl => 0x001FFFFF
  | .fc => 0x00FF0000
  | .fbm => 0x00FFF000
  | .fb => 0x00FFFFFE
  | .fr => 0x00FFFF00

/-- The decoder's check of one field, as a mask. -/
theorem extractLsb'_isZero_iff (w : Word) (lo len : Nat) (h : lo + len ≤ 32) :
    (w.extractLsb' lo len == 0) = true ↔ w &&& BitVec.ofNat 32 (2 ^ lo * (2 ^ len - 1)) = 0 := by
  rw [extract_beq_zero, decide_eq_true_iff, and_fieldMask_eq_zero_iff w lo len h]

theorem Format.reservedIsZero_iff (f : Format) (w : Word) :
    f.reservedIsZero w = true ↔ w &&& f.reservedMask = 0 := by
  cases f with
  | fn => exact extractLsb'_isZero_iff w 0 24 (by decide)
  | flk => exact extractLsb'_isZero_iff w 0 16 (by decide)
  | flkc => exact iff_of_true rfl BitVec.and_zero
  | fl => exact extractLsb'_isZero_iff w 0 21 (by decide)
  | fc => exact extractLsb'_isZero_iff w 16 8 (by decide)
  | fbm => exact extractLsb'_isZero_iff w 12 12 (by decide)
  | fb => exact extractLsb'_isZero_iff w 1 23 (by decide)
  | fr => exact extractLsb'_isZero_iff w 8 16 (by decide)

end Sys2Proof

namespace Sys2Proof.Machine

open Sys2Proof.Claims

/-- Every command has the clause `FatalRejects` (R301, R304). -/
theorem fatalRejects (i : Instr) : FatalRejects i := fun _ => exec_fatal i

/-- A word with a reserved bit set writes its STATUS and nothing else (R113, R302). -/
theorem runWord_of_decode_reserved {w : Word} (s : State) (h : decode w = .error .reserved) :
    runWord w s = .next { s with status := if s.fatal then 0x05 else 0x02 } := by
  rw [runWord, h]
  cases hfatal : s.fatal <;> simp [reject, hfatal, statusOf, State.setStatus, Status.code]

/-- The clause `CommandWord` of a command whose operand fields `i` reads from the word: the mask is its format's. -/
theorem commandWord_of_reread {opc : BitVec 8} {f : Format} {i : Word → Instr}
    (hopcode : ∀ w, (i w).opcode = opc.toNat) (hformat : ∀ w, (i w).format = f)
    (hreread : ∀ w, (i w).reread w = i w) : CommandWord opc f.reservedMask i := by
  intro w s hopc
  have hop : (opcField w).toNat = (i w).opcode := (congrArg BitVec.toNat hopc).trans (hopcode w).symm
  have hreserved : (i w).format.reservedIsZero w = true ↔ w &&& f.reservedMask = 0 :=
    hformat w ▸ (i w).format.reservedIsZero_iff w
  constructor
  · intro hzero
    exact (decode_of_opcode hop (hreserved.2 hzero)).trans (congrArg _ (hreread w))
  · intro hset
    exact runWord_of_decode_reserved s (decode_reserved hop (Bool.eq_false_iff.2 (mt hreserved.1 hset)))

/-- FILTER outside the fatal state. -/
theorem exec_filter {s : State} (h : s.fatal = false) :
    exec .filter s = .next
      ((s.setDout ((debounce (samplePort s.inp.din0) (samplePort s.inp.din1)).setWidth 32)).setStatus .ok) := by
  rw [exec, execFilter, runPlain_ok _ h]

end Sys2Proof.Machine

namespace Sys2Proof.Proofs

open Sys2Proof.Machine

/-- Settles O11: the filter is a plain OR of the samples, which is the common bit where they agree and 1 where they
differ. -/
theorem debounceForcesUnstableBitsPressed : Obligations.DebounceForcesUnstableBitsPressed := by
  intro s0 s1
  refine ⟨rfl, fun n _ => ?_⟩
  rw [debounce_eq_or, BitVec.getLsbD_or]
  split
  case isTrue hdiffer => rw [Bool.eq_not.2 hdiffer, Bool.not_or_self]
  case isFalse hagree => rw [not_not.1 hagree, Bool.or_self]

/-- Settles O12: outside the fatal state FILTER writes DOUT and STATUS alone; its two rejections are those of every
command and of every word with a reserved bit set. -/
theorem filterCombinesTheSamples : Obligations.FilterCombinesTheSamples :=
  ⟨fun _ => exec_filter, fatalRejects .filter,
    commandWord_of_reread (f := .fn) (fun _ => rfl) (fun _ => rfl) fun _ => rfl⟩

end Sys2Proof.Proofs
end

section
/-! PROOFS. The statements of 42_keymap.md: the combo commands ISCOMBO, BASE, MODMASK and MKCOMBO. -/

namespace Sys2Proof.Machine

/-- DOUT of one bit, as a number. -/
theorem boolWord_eq_ite (b : Bool) : boolWord b = if b then 1 else 0 := by
  cases b with
  | true => rfl
  | false => rfl

/-- `is_combo` as the equation of R173. -/
theorem isCombo_iff (code : KeyCode) : isCombo code = true ↔ code &&& 0x7000 = 0x7000 := beq_iff_eq

/-! ### `make_combo` -/

/-- `make_combo` writes bits 14:12, 11:8 and 7:0 alone (R176). -/
theorem getLsbD_makeCombo_15 (base mods : KeyCode) : (makeCombo base mods).getLsbD 15 = false := by
  have hflag : comboFlag.getLsbD 15 = false := rfl
  have hbase : baseMask.getLsbD 15 = false := rfl
  have hmods : modField.getLsbD 15 = false := rfl
  simp only [makeCombo, BitVec.getLsbD_or, BitVec.getLsbD_and, hflag, hbase, hmods, Bool.and_false, Bool.or_false]

/-- MKCOMBO's base operand lies in the base field. -/
theorem mkcomboBase_and_baseMask (base : BitVec 8) : mkcomboBase base &&& baseMask = mkcomboBase base := by
  have hmask : baseMask = (BitVec.allOnes 8).setWidth 16 := by decide
  rw [mkcomboBase, hmask, ← BitVec.setWidth_and, BitVec.and_allOnes]

/-- MKCOMBO's modifier operand, shifted, lies in the modifier field. -/
theorem mkcomboMods_and_modField (mods : BitVec 4) : mkcomboMods mods &&& modField = mkcomboMods mods := by
  have hfield : modField = (BitVec.allOnes 4).setWidth 16 <<< 8 := by decide
  rw [mkcomboMods, hfield, ← BitVec.shiftLeft_and_distrib, ← BitVec.setWidth_and, BitVec.and_allOnes]

/-- On MKCOMBO's operands the masks of `make_combo` take nothing away (R110, R176). -/
theorem makeCombo_mkcombo (base : BitVec 8) (mods : BitVec 4) :
    makeCombo (mkcomboBase base) (mkcomboMods mods) = comboFlag ||| mkcomboBase base ||| mkcomboMods mods := by
  rw [makeCombo, mkcomboBase_and_baseMask, mkcomboMods_and_modField]

/-! ### The commands outside the fatal state -/

theorem exec_iscombo {s : State} (code : KeyCode) (h : s.fatal = false) :
    exec (.iscombo code) s =
      .next ((s.setDout (if code &&& 0x7000 = 0x7000 then 1 else 0)).setStatus .ok) := by
  rw [exec, execIscombo, runPlain_ok _ h, boolWord_eq_ite]
  simp only [isCombo_iff]

theorem exec_base {s : State} (code : KeyCode) (h : s.fatal = false) :
    exec (.base code) s = .next ((s.setDout ((comboBase code).setWidth 32)).setStatus .ok) := by
  rw [exec, execBase, runPlain_ok _ h]

theorem exec_modmask {s : State} (code : KeyCode) (h : s.fatal = false) :
    exec (.modmask code) s = .next ((s.setDout ((modifierMask code).setWidth 32)).setStatus .ok) := by
  rw [exec, execModmask, runPlain_ok _ h]

theorem exec_mkcombo {s : State} (mods : BitVec 4) (base : BitVec 8) (h : s.fatal = false) :
    exec (.mkcombo mods base) s =
      .next ((s.setDout ((comboFlag ||| mkcomboBase base ||| mkcomboMods mods).setWidth 32)).setStatus .ok) := by
  rw [exec, execMkcombo, runPlain_ok _ h, makeCombo_mkcombo]

end Sys2Proof.Machine

namespace Sys2Proof.Proofs

open Sys2Proof.Machine

/-- Settles O18: each of the three commands writes DOUT and STATUS alone outside the fatal state; its two rejections
are those of every command and of every word of format FC. -/
theorem comboFieldCommands : Obligations.ComboFieldCommands := by
  refine ⟨fun c s h => ⟨exec_iscombo c h, exec_base c h, exec_modmask c h⟩, fun c => ?_, ?_, ?_, ?_⟩
  · exact ⟨fatalRejects (.iscombo c), fatalRejects (.base c), fatalRejects (.modmask c)⟩
  all_goals exact commandWord_of_reread (f := .fc) (fun _ => rfl) (fun _ => rfl) fun _ => rfl

/-- Settles O19: `make_combo` writes three fields below bit 15, and MKCOMBO's operands fill theirs, so the masks
disappear from its DOUT. -/
theorem mkcomboBuildsTheCode : Obligations.MkcomboBuildsTheCode := by
  refine ⟨fun b m => ⟨rfl, getLsbD_makeCombo_15 b m⟩, fun m b s h => exec_mkcombo m b h, fun m b => ?_, ?_⟩
  · exact fatalRejects (.mkcombo m b)
  · exact commandWord_of_reread (f := .fbm) (fun _ => rfl) (fun _ => rfl) fun _ => rfl

end Sys2Proof.Proofs
end

section
/-! PROOFS. The statements of 43_assembler.md: the boot report with its reset pulse, and the one primary report of
every cycle. -/

namespace Sys2Proof.Machine

open Sys2Proof.Claims

/-- ASSEMBLE outside the fatal state, with a layer in range (R210). -/
theorem exec_assemble {layer : BitVec 3} {s : State} (hl : layer.toNat < 7) (h : s.fatal = false) :
    exec (.assemble layer) s = .next
      (((assembleStep (maskPort s.inp.din0) ⟨layer.toNat, hl⟩ s).setDout
        (batchLength (assembleStep (maskPort s.inp.din0) ⟨layer.toNat, hl⟩ s))).setStatus .ok) := by
  rw [exec, execAssemble, asLayer_ok hl, runChecked_ok _ _ h]

/-- What the consumer state machine adds to a batch. -/
theorem consumerStep_atMostOneConsumer (crs : Crs) (u : Usage) (t : Word) :
    AtMostOneConsumer (consumerStep crs u t).1.toList := by
  obtain h | ⟨v, h⟩ := consumerStep_report crs u t
  · simp [h, AtMostOneConsumer]
  · simp [h, AtMostOneConsumer]

/-- What ASSEMBLE leaves: `use_full_key` by the number of regular codes, and a batch of the primary reports with at most
a consumer report behind them (R209). -/
theorem exec_assemble_batch {layer : BitVec 3} {s : State} (hl : layer.toNat < 7) (h : s.fatal = false)
    {c : Contribution}
    (hc : c = contributions s.cfg (codesOf s ⟨layer.toNat, hl⟩ (s.inp.din0.extractLsb' 0 17))) :
    ∃ t consumer, exec (.assemble layer) s = .next t ∧ t.useFullKey = fullKeyFlag c.regular ∧
      AtMostOneConsumer consumer ∧ t.batch = primaryReports s.useFullKey c ++ consumer := by
  subst hc
  exact ⟨_, _, exec_assemble hl h, rfl, consumerStep_atMostOneConsumer _ _ _, rfl⟩

/-! ### The two report modes, by the number of regular codes -/

theorem fullKeyFlag_of_le {regular : List Byte} (h : regular.length ≤ 6) : fullKeyFlag regular = false :=
  decide_eq_false (Nat.not_lt.2 h)

theorem fullKeyFlag_of_lt {regular : List Byte} (h : 6 < regular.length) : fullKeyFlag regular = true :=
  decide_eq_true h

/-- N ≤ 6: the boot report, after the reset pulse if the mode was full-key (R203, R204). -/
theorem primaryReports_of_le (useFullKey : Bool) {c : Contribution} (h : c.regular.length ≤ 6) :
    primaryReports useFullKey c =
      (if useFullKey then [resetPulse] else []) ++ [.keyboard c.modifier (bootSlotsOf c.regular)] := by
  rw [primaryReports, fullKeyFlag_of_le h, if_neg Bool.false_ne_true]

/-- N > 6: the full-key report and no pulse (R205). -/
theorem primaryReports_of_lt (useFullKey : Bool) {c : Contribution} (h : 6 < c.regular.length) :
    primaryReports useFullKey c = [.fullKey c.modifier (bitmapOf c.regular)] := by
  rw [primaryReports, fullKeyFlag_of_lt h, if_pos rfl]

/-- The primary reports end with the one primary report; only the reset pulse comes before it, and only out of full-key
mode. With no regular code it is the boot report with empty slots (R206). -/
theorem primaryReports_eq_append (useFullKey : Bool) (c : Contribution) :
    ∃ pre r, primaryReports useFullKey c = pre ++ [r] ∧ (pre = [] ∨ useFullKey = true ∧ pre = [resetPulse]) ∧
      r.isPrimary = true ∧ (c.regular = [] → r = .keyboard c.modifier (bootSlotsOf [])) := by
  obtain hle | hlt := le_or_gt c.regular.length 6
  · refine ⟨_, _, primaryReports_of_le useFullKey hle, ?_, rfl, fun hnil => by rw [hnil]⟩
    cases useFullKey with
    | false => exact .inl rfl
    | true => exact .inr ⟨rfl, rfl⟩
  · refine ⟨[], _, primaryReports_of_lt useFullKey hlt, .inl rfl, rfl, fun hnil => ?_⟩
    exact absurd hlt (by simp [hnil])

/-! ### No key pressed -/

/-- The slots of a boot report with no code. -/
theorem bootSlotsOf_nil : bootSlotsOf [] = Vector.replicate bootSlots 0 := by decide

/-- An empty mask has no pressed key, so no code. -/
theorem codesOf_zero (s : State) (l : Fin totalLayers) : codesOf s l 0 = [] := by
  simp [codesOf]

end Sys2Proof.Machine

namespace Sys2Proof.Proofs

open Sys2Proof.Machine Sys2Proof.Claims

/-- Settles O25: the number of regular codes decides the form of the primary reports, and the consumer state machine
adds at most its one report behind them. -/
theorem bootReportAndResetPulse : Obligations.BootReportAndResetPulse := by
  intro l s hl c hfatal hc
  obtain ⟨t, consumer, hexec, hmode, hconsumer, hbatch⟩ := exec_assemble_batch hl hfatal hc
  refine ⟨fun hle => ?_, fun hlt => ?_⟩
  · rw [fullKeyFlag_of_le hle] at hmode
    rw [primaryReports_of_le _ hle] at hbatch
    exact ⟨t, _, consumer, hexec, hmode, bootSlotsOf_toList hle, hconsumer, hbatch⟩
  · rw [primaryReports_of_lt _ hlt] at hbatch
    exact ⟨t, _, consumer, hexec, hconsumer, hbatch⟩

/-- Settles O27: the primary reports end with one primary report, and an empty mask contributes nothing to it. -/
theorem onePrimaryReportEveryCycle : Obligations.OnePrimaryReportEveryCycle := by
  intro l s hl hfatal
  obtain ⟨t, consumer, hexec, -, hconsumer, hbatch⟩ := exec_assemble_batch hl hfatal rfl
  obtain ⟨pre, r, hreports, hpre, hprimary, hempty⟩ := primaryReports_eq_append s.useFullKey
    (contributions s.cfg (codesOf s ⟨l.toNat, hl⟩ (s.inp.din0.extractLsb' 0 17)))
  rw [hreports, List.append_assoc] at hbatch
  refine ⟨t, pre, r, consumer, hexec, hbatch, hpre, hprimary, hconsumer, fun hmask => ?_⟩
  rw [hmask, codesOf_zero, bootSlotsOf_nil] at hempty
  exact hempty rfl

end Sys2Proof.Proofs
end

section
/-! PROOFS. The statements of 44_dispatch.md: a press while the link is suspended, SUSPEND, and the Sender's POP. -/

namespace Sys2Proof.Machine

open Sys2Proof.Claims

/-! ### The records of a wakeup request, port by port (R55, R248) -/

@[simp] theorem wakes_wakeRecords (ok : Bool) : wakes (wakeRecords ok) = 1 := by cases ok <;> rfl

@[simp] theorem evtLed_wakeRecords (ok : Bool) : evtLed (wakeRecords ok) = [] := by cases ok <;> rfl

/-! ### SUSPEND -/

/-- SUSPEND outside the fatal state (R231). -/
theorem exec_suspend {s : State} (b : Bool) (h : s.fatal = false) :
    exec (.suspend b) s = .next (State.setStatus .ok { s with link := ⟨true, b⟩ }) := by
  rw [exec, execSuspend, runPlain_ok _ h]

/-! ### A turn of the Sender, case by case -/

/-- In WAIT the only step is TIMEOUT (R244). -/
theorem senderStep_wait (s : State) {since : Word} (hwait : s.sender = .wait since) :
    senderStep s = s ∨ senderStep s = senderTimeout s := by
  obtain ⟨_, _, -, hidle, -⟩ | ⟨-, hidle, -⟩ | ⟨_, -, -, -, h⟩ | h := senderStep_cases s
  · exact nomatch hwait.symm.trans hidle
  · exact nomatch hwait.symm.trans hidle
  · exact .inr h
  · exact .inl h

/-- POP with the link active (R242). -/
theorem senderStep_pop_active (s : State) {r : HidReport} {q : List HidReport} (hfatal : s.fatal = false)
    (hidle : s.sender = .idle) (hqueue : s.queue = r :: q) (hactive : s.link.suspended = false) :
    senderStep s = { s.emit [txRecord s.cfg r] with
      queue := q
      sender := .wait s.inp.now } := by
  simp [senderStep, senderPop, hfatal, hidle, hqueue, hactive]

/-- POP with the link suspended, whatever `rwa` (R241). -/
theorem senderStep_pop_suspended (s : State) {r : HidReport} {q : List HidReport} (hfatal : s.fatal = false)
    (hidle : s.sender = .idle) (hqueue : s.queue = r :: q) (hsuspended : s.link.suspended = true) :
    senderStep s = (s.emit (wakeRecords s.inp.wakeOk)).drain := by
  simp [senderStep, senderPop, hfatal, hidle, hqueue, hsuspended]

@[simp] theorem txs_senderTimeout (s : State) : txs (senderTimeout s).trace = txs s.trace :=
  (txs_append _ _).trans (List.append_nil _)

end Sys2Proof.Machine

namespace Sys2Proof.Proofs

open Sys2Proof.Machine Sys2Proof.Claims

/-- Settles O35: the press asks for a wakeup, so DISPATCH's records are those of one request, and with the link suspended
its body leaves the queue and drops the batch. -/
theorem pressWhileSuspendedRequestsOneWakeup : Obligations.PressWhileSuspendedRequestsOneWakeup := by
  intro s hfatal henabled hsuspended hrwa hpress
  have hwakes : s.wakes = true := by simp [State.wakes, henabled, hsuspended, hrwa, hpress]
  have htrace : (dispatchStep s).trace = s.trace ++ wakeRecords s.inp.wakeOk := by simp [hwakes]
  have hqueue : (dispatchStep s).queue = s.queue := by simp [henabled, hsuspended]
  exact ⟨_, _, exec_dispatch hfatal, htrace, wakes_wakeRecords _, hqueue, rfl, by simp [hwakes, boolWord]⟩

/-- Settles O38: outside the fatal state SUSPEND writes the link and STATUS alone; its two rejections are those of every
command and of every word with a reserved bit set. -/
theorem suspendWritesTheLink : Obligations.SuspendWritesTheLink :=
  ⟨fun b _ => exec_suspend b, fun b => fatalRejects (.suspend b),
    commandWord_of_reread (f := .fb) (fun _ => rfl) (fun _ => rfl) fun _ => rfl⟩

/-- Settles O48: idle with the link active, a turn of the Sender is the POP that transmits; in WAIT it is a TIMEOUT or
nothing, neither of which reaches the queue or the TX port. -/
theorem popTransmitsTheHead : Obligations.PopTransmitsTheHead := by
  constructor
  · intro s r q t ok hfatal hidle hqueue hactive
    exact congrArg Host.Outcome.next
      (senderStep_pop_active { s with inp := s.inp.forSender t ok } hfatal hidle hqueue hactive)
  · intro s since t ok hwait
    refine ⟨_, rfl, ?_⟩
    obtain h | h := senderStep_wait { s with inp := s.inp.forSender t ok } hwait <;> rw [h]
    case inl => exact ⟨rfl, rfl, .inl hwait⟩
    case inr => exact ⟨rfl, txs_senderTimeout _, .inr rfl⟩

/-- Settles O49: with the link suspended a turn of the Sender is the POP that drains, and its records are those of one
wakeup request. -/
theorem popWhileSuspendedDrains : Obligations.PopWhileSuspendedDrains := by
  intro s r q t ok hfatal hidle hqueue hsuspended
  refine ⟨wakeRecords ok, ?_, wakes_wakeRecords ok, txs_wakeRecords ok, evtLed_wakeRecords ok⟩
  exact congrArg Host.Outcome.next
    (senderStep_pop_suspended { s with inp := s.inp.forSender t ok } hfatal hidle hqueue hsuspended)

end Sys2Proof.Proofs
end

section
/-! PROOFS. The statement of 60_exceptions.md: no data condition raises a status. -/

namespace Sys2Proof.Machine

/-! ### The legal ranges (R109) as what the operand checks accept -/

theorem legalLayer_iff {layer : BitVec 3} : legalLayer layer = true ↔ layer.toNat < 7 :=
  decide_eq_true_iff.trans Nat.lt_succ_iff.symm

theorem legalKey_iff {key : BitVec 5} : legalKey key = true ↔ key.toNat < 17 :=
  decide_eq_true_iff.trans Nat.lt_succ_iff.symm

theorem writableLayer_iff {layer : BitVec 3} : writableLayer layer = true ↔ layer.toNat ≠ 0 ∧ layer.toNat < 7 := by
  rw [writableLayer, decide_eq_true_iff]
  omega

theorem assignedReg_iff {reg : BitVec 8} : assignedReg reg = true ↔ reg.toNat ≤ 0x0A := decide_eq_true_iff

/-! ### STATUS = OK depends on the operand check alone -/

/-- Whatever its body does to the state, a checked command whose operands pass ends with OK. -/
theorem runChecked_status_ok {α : Type} {chk : Except Status α} {a : α} (hchk : chk = .ok a)
    (body : α → State → State) {s : State} (hfatal : s.fatal = false) :
    ∃ t, runChecked chk body s = .next t ∧ t.status = 0x00 := by
  subst hchk
  exact ⟨_, runChecked_ok a body hfatal, rfl⟩

/-- Whatever its body does to the state, a command without an operand check ends with OK. -/
theorem runPlain_status_ok (body : State → State) {s : State} (hfatal : s.fatal = false) :
    ∃ t, runPlain body s = .next t ∧ t.status = 0x00 :=
  runChecked_status_ok rfl _ hfatal

/-- Five commands check an operand, and a legal one passes; the others check nothing. -/
theorem exec_status_ok {i : Instr} {s : State} (hlegal : i.wellFormed = true) (hfatal : s.fatal = false) :
    ∃ t, exec i s = .next t ∧ t.status = 0x00 := by
  unfold exec
  cases i with
  | resolve layer key =>
    obtain ⟨hlayer, hkey⟩ := Bool.and_eq_true_iff.mp hlegal
    exact runChecked_status_ok (asEntry_ok (legalLayer_iff.mp hlayer) (legalKey_iff.mp hkey)) _ hfatal
  | assemble layer => exact runChecked_status_ok (asLayer_ok (legalLayer_iff.mp hlegal)) _ hfatal
  | kmwrite layer key code =>
    obtain ⟨hlayer, hkey⟩ := Bool.and_eq_true_iff.mp hlegal
    obtain ⟨hwritable, hlt⟩ := writableLayer_iff.mp hlayer
    exact runChecked_status_ok (asWritableEntry_ok hwritable hlt (legalKey_iff.mp hkey)) _ hfatal
  | setlayer layer => exact runChecked_status_ok (asLayer_ok (legalLayer_iff.mp hlegal)) _ hfatal
  | rdreg reg =>
    obtain ⟨_, hreg⟩ := asCsr_ok (assignedReg_iff.mp hlegal)
    exact runChecked_status_ok hreg _ hfatal
  | _ => exact runPlain_status_ok _ hfatal

end Sys2Proof.Machine

namespace Sys2Proof.Proofs

open Sys2Proof.Machine

/-- Settles O9: STATUS is the outcome of the operand check, and the check reads nothing of the state. -/
theorem dataConditionsRaiseNoStatus : Obligations.DataConditionsRaiseNoStatus :=
  fun _ _ => exec_status_ok

end Sys2Proof.Proofs
end

section
/-! PROOFS. The statements of 30_encoding.md: decoding and encoding are inverse to each other, and the words of the
statements of a program text. -/

namespace Sys2Proof

/-! ### The operand fields of a command's word (R100 to R108) -/

theorem layerField_encode {i : Instr} {layer : BitVec 3} (h : i.fields / 2 ^ 21 = layer.toNat) :
    layerField (encode i) = layer := by
  apply BitVec.eq_of_toNat_eq
  rw [layerField_toNat, encode_toNat]
  omega

theorem keyField_encode {i : Instr} {key : BitVec 5} (h : i.fields / 2 ^ 16 % 32 = key.toNat) :
    keyField (encode i) = key := by
  apply BitVec.eq_of_toNat_eq
  rw [keyField_toNat, encode_toNat]
  omega

theorem codeField_encode {i : Instr} {code : KeyCode} (h : i.fields % 2 ^ 16 = code.toNat) :
    codeField (encode i) = code := by
  apply BitVec.eq_of_toNat_eq
  rw [codeField_toNat, encode_toNat]
  omega

theorem modsField_encode {i : Instr} {mods : BitVec 4} (h : i.fields / 2 ^ 8 % 16 = mods.toNat) :
    modsField (encode i) = mods := by
  apply BitVec.eq_of_toNat_eq
  rw [modsField_toNat, encode_toNat]
  omega

theorem baseField_encode {i : Instr} {base : BitVec 8} (h : i.fields % 2 ^ 8 = base.toNat) :
    baseField (encode i) = base := by
  apply BitVec.eq_of_toNat_eq
  rw [baseField_toNat, encode_toNat]
  omega

theorem regField_encode {i : Instr} {reg : BitVec 8} (h : i.fields = reg.toNat) : regField (encode i) = reg := by
  apply BitVec.eq_of_toNat_eq
  rw [regField_toNat, encode_toNat]
  omega

theorem bField_encode {i : Instr} {b : Bool} (h : i.fields = b.toNat) : bField (encode i) = b := by
  rw [bField_eq, encode_toNat, h]
  cases b with
  | false => exact decide_eq_false (by simp; omega)
  | true => exact decide_eq_true (by simp; omega)

/-- Reading the operands again from a command's own word changes nothing. -/
theorem reread_encode (i : Instr) : i.reread (encode i) = i := by
  cases i with
  | resolve layer key =>
    have hfields : (Instr.resolve layer key).fields = layer.toNat * 2 ^ 21 + key.toNat * 2 ^ 16 := rfl
    exact congrArg₂ Instr.resolve (layerField_encode (by omega)) (keyField_encode (by omega))
  | iscombo code => exact congrArg Instr.iscombo (codeField_encode (Nat.mod_eq_of_lt code.isLt))
  | base code => exact congrArg Instr.base (codeField_encode (Nat.mod_eq_of_lt code.isLt))
  | modmask code => exact congrArg Instr.modmask (codeField_encode (Nat.mod_eq_of_lt code.isLt))
  | mkcombo mods base =>
    have hfields : (Instr.mkcombo mods base).fields = mods.toNat * 2 ^ 8 + base.toNat := rfl
    exact congrArg₂ Instr.mkcombo (modsField_encode (by omega)) (baseField_encode (by omega))
  | classify code => exact congrArg Instr.classify (codeField_encode (Nat.mod_eq_of_lt code.isLt))
  | cxlate code => exact congrArg Instr.cxlate (codeField_encode (Nat.mod_eq_of_lt code.isLt))
  | assemble layer => exact congrArg Instr.assemble (layerField_encode (Nat.mul_div_cancel _ (by decide)))
  | kmwrite layer key code =>
    have hfields : (Instr.kmwrite layer key code).fields =
        layer.toNat * 2 ^ 21 + key.toNat * 2 ^ 16 + code.toNat := rfl
    rw [Instr.reread, layerField_encode (layer := layer) (by omega), keyField_encode (key := key) (by omega),
      codeField_encode (code := code) (by omega)]
  | setlayer layer => exact congrArg Instr.setlayer (layerField_encode (Nat.mul_div_cancel _ (by decide)))
  | seten b => exact congrArg Instr.seten (bField_encode rfl)
  | suspend b => exact congrArg Instr.suspend (bField_encode rfl)
  | rdreg reg => exact congrArg Instr.rdreg (regField_encode rfl)
  | _ => rfl

/-- The word of a command has 0 in every must-be-0 bit: the second half of the family `WordShape`. -/
theorem reservedIsZero_encode (i : Instr) : i.format.reservedIsZero (encode i) = true := by
  cases i with
  | filter => exact Laws.WordShape.filter.2
  | diff => exact Laws.WordShape.diff.2
  | resolve layer key => exact (Laws.WordShape.resolve layer key).2
  | iscombo code => exact (Laws.WordShape.iscombo code).2
  | base code => exact (Laws.WordShape.base code).2
  | modmask code => exact (Laws.WordShape.modmask code).2
  | mkcombo mods base => exact (Laws.WordShape.mkcombo mods base).2
  | classify code => exact (Laws.WordShape.classify code).2
  | cxlate code => exact (Laws.WordShape.cxlate code).2
  | assemble layer => exact (Laws.WordShape.assemble layer).2
  | dispatch => exact Laws.WordShape.dispatch.2
  | scan => exact Laws.WordShape.scan.2
  | kmwrite layer key code => exact (Laws.WordShape.kmwrite layer key code).2
  | setlayer layer => exact (Laws.WordShape.setlayer layer).2
  | seten b => exact (Laws.WordShape.seten b).2
  | suspend b => exact (Laws.WordShape.suspend b).2
  | resume => exact Laws.WordShape.resume.2
  | txdone => exact Laws.WordShape.txdone.2
  | rdreg reg => exact (Laws.WordShape.rdreg reg).2

theorem decode_encode (i : Instr) : decode (encode i) = .ok i := by
  rw [decode_of_opcode (opcField_encode i) (reservedIsZero_encode i), reread_encode]

theorem bField_toNat (w : Word) : (bField w).toNat = w.toNat % 2 := by
  rw [bField_eq]
  obtain h | h := Nat.mod_two_eq_zero_or_one w.toNat <;> simp [h]

/-- With its must-be-0 bits 0, the low 24 bits of a word are the operand fields a command of its opcode reads there. -/
theorem fields_reread {i : Instr} {w : Word} (hzero : i.format.reservedIsZero w = true) :
    (i.reread w).fields = w.toNat % 2 ^ 24 := by
  rw [reservedIsZero_eq] at hzero
  cases i <;>
    simp only [Instr.format, decide_eq_true_eq, Instr.reread, Instr.fields, layerField_toNat, keyField_toNat,
      codeField_toNat, modsField_toNat, baseField_toNat, regField_toNat, bField_toNat] at hzero ⊢ <;>
    omega

/-- A word that decodes is its command's own: the opcode above, the fields below, and nothing else. -/
theorem encode_of_decode {w : Word} {i : Instr} (h : decode w = .ok i) : encode i = w := by
  obtain ⟨hopcode, hreread, hzero⟩ := decode_eq_ok h
  have hfields : i.fields = w.toNat % 2 ^ 24 := by rw [← fields_reread hzero, hreread]
  apply BitVec.eq_of_toNat_eq
  rw [encode_toNat, hfields, ← hopcode, opcField_toNat]
  omega

end Sys2Proof

namespace Sys2Proof.Machine

open Sys2Proof.Claims

/-- A u16 operand fits its field. -/
theorem fieldOf_toNat {n : Nat} (x : BitVec n) : fieldOf n x.toNat = some x := by
  simp [fieldOf, x.isLt]

/-- The word of `COMBO base, mods` as R117 writes it. -/
def comboWord (b m : BitVec 16) : Word :=
  0x07000000#32 ||| (m.setWidth 32 &&& 0x0F00#32) ||| (b.setWidth 32 &&& 0xFF#32)

theorem opcode_comboWord (b m : BitVec 16) : (comboWord b m).extractLsb' 24 8 = 0x07 := by
  apply BitVec.eq_of_getLsbD_eq
  intro i hi
  interval_cases i <;> simp [comboWord]

theorem reserved_comboWord (b m : BitVec 16) : comboWord b m &&& 0x00FFF000 = 0 := by
  apply BitVec.eq_of_getLsbD_eq
  intro i hi
  interval_cases i <;> simp [comboWord]

theorem modsField_comboWord (b m : BitVec 16) : modsField (comboWord b m) = m.extractLsb' 8 4 := by
  apply BitVec.eq_of_getLsbD_eq
  intro i hi
  interval_cases i <;> simp [comboWord, modsField]

theorem baseField_comboWord (b m : BitVec 16) : baseField (comboWord b m) = b.extractLsb' 0 8 := by
  apply BitVec.eq_of_getLsbD_eq
  intro i hi
  interval_cases i <;> simp [comboWord, baseField]

/-- COMBO's word is MKCOMBO's with the operands in their fields (R110, R117). -/
theorem encode_mkcombo_eq_comboWord (b m : BitVec 16) :
    encode (.mkcombo (m.extractLsb' 8 4) (b.extractLsb' 0 8)) = comboWord b m := by
  have hword : CommandWord 0x07 0x00FFF000 (fun w => .mkcombo (modsField w) (baseField w)) :=
    commandWord_of_reread (f := .fbm) (fun _ => rfl) (fun _ => rfl) fun _ => rfl
  have hdecode := (hword (comboWord b m) State.reset (opcode_comboWord b m)).1 (reserved_comboWord b m)
  rw [← modsField_comboWord b, ← baseField_comboWord b m]
  exact encode_of_decode hdecode

end Sys2Proof.Machine

namespace Sys2Proof.Proofs

open Sys2Proof.Machine

/-- Settles O1: a command's word holds its opcode, its operands and nothing in the must-be-0 bits. -/
theorem decodeOfEncodeIsTheCommand : Obligations.DecodeOfEncodeIsTheCommand := decode_encode

/-- Settles O2: the opcode, the fields and the must-be-0 bits of a decoded word are all its bits. -/
theorem encodeOfDecodeIsTheWord : Obligations.EncodeOfDecodeIsTheWord := fun _ _ => encode_of_decode

/-- Settles O3, each word by evaluating the decoder. -/
theorem wordsOfTheSpecDecode : Obligations.WordsOfTheSpecDecode := by
  unfold Obligations.WordsOfTheSpecDecode
  decide

/-- Settles O4: a statement's word is the encoding of its command, which decodes; COMBO's is spelled out bit by bit. -/
theorem pseudoInstructionWords : Obligations.PseudoInstructionWords := by
  refine ⟨fun _ _ => rfl, fun _ _ => rfl, fun _ _ => rfl, fun b m d0 d1 => ?_, fun st i h => ?_⟩
  · have hinstr : (Statement.mk .combo [.num b.toNat, .num m.toNat] d0 d1).instr =
        some (.mkcombo (m.extractLsb' 8 4) (b.extractLsb' 0 8)) := by
      simp [Statement.instr, mkcomboOf, fieldOf_toNat]
    rw [Statement.word, hinstr]
    exact congrArg some (encode_mkcombo_eq_comboWord b m)
  · exact ⟨encode i, by rw [Statement.word, h, Option.map_some], rfl, decode_encode i⟩

end Sys2Proof.Proofs
end

section
/-! PROOFS. The statements of 70_reset_and_hazards.md and the invariant of the state: it holds after every reset, and
each named update of the state keeps it. -/

namespace Sys2Proof.Machine

/-! ### The invariant, update by update -/

/-- The invariant reads nothing of the schedule and of the ports. -/
theorem State.Inv.sampled {s : State} (h : s.Inv) (rest : List Event) (p : Inputs) :
    State.Inv { s with
      pending := rest
      inp := p } :=
  ⟨h.cfg, h.km, h.queue, h.batch, h.status, h.repeatKey, h.press, h.fatal⟩

theorem State.Inv.emit {s : State} (h : s.Inv) (rs : List Record) : (s.emit rs).Inv :=
  ⟨h.cfg, h.km, h.queue, h.batch, h.status, h.repeatKey, h.press, h.fatal⟩

theorem State.Inv.setStatus {s : State} (h : s.Inv) (st : Status) : (s.setStatus st).Inv :=
  { h with status := st.code_le, fatal := h.fatal }

theorem State.Inv.applyReset {s : State} (h : s.cfg.valid = true) (ok : Bool) : (s.applyReset ok).Inv where
  cfg := h
  km := Memory.wf_nil s.cfg
  queue := Nat.zero_le _
  batch := .empty
  status := Nat.zero_le _
  repeatKey := nofun
  press := nofun
  fatal _ := ⟨rfl, rfl, rfl, rfl, rfl, rfl, rfl, rfl, rfl, rfl, rfl, rfl⟩

/-- A state that is not fatal meets every clause about fatal states. -/
theorem fatal_elim {s : State} {P : Prop} (hfatal : s.fatal = false) (h : s.fatal = true) : P :=
  absurd (hfatal.symm.trans h) Bool.false_ne_true

/-- DISPATCH keeps the queue within its bound. -/
theorem dispatchStep_queue_length_le {s : State} (h : s.queue.length ≤ queueCap) :
    (dispatchStep s).queue.length ≤ queueCap := by
  rw [dispatchStep_queue]
  split
  · exact Nat.zero_le _
  · split
    · exact h
    · exact pushAll_length_le _ h

section
/-! Outside the fatal state the last clause of the invariant asks for nothing. -/

variable {s : State} (h : s.Inv) (hfatal : s.fatal = false)
include h hfatal

theorem State.Inv.setDout (v : Word) : (s.setDout v).Inv :=
  { h with fatal := fatal_elim hfatal }

theorem State.Inv.setLink (link : Link) : State.Inv { s with link := link } :=
  { h with fatal := fatal_elim hfatal }

theorem State.Inv.setLayer (l : Fin totalLayers) : State.Inv { s with layer := l } :=
  { h with fatal := fatal_elim hfatal }

theorem State.Inv.setReportEnabled (b : Bool) : State.Inv { s with reportEnabled := b } :=
  { h with fatal := fatal_elim hfatal }

theorem State.Inv.setSender (sender : Sender) : State.Inv { s with sender := sender } :=
  { h with fatal := fatal_elim hfatal }

theorem State.Inv.setQueue {q : List HidReport} (hq : q.length ≤ queueCap) : State.Inv { s with queue := q } :=
  { h with queue := hq, fatal := fatal_elim hfatal }

/-- A write outside layer 0 keeps the storage canonical. -/
theorem State.Inv.writeKeymap {l : Fin totalLayers} (hl : l ≠ 0) (k : Fin numKeys) (v : KeyCode) :
    (s.writeKeymap l k v).Inv :=
  { h with
    km := Memory.wf_write v h.km (linearIndex_bounds k hl).1 (linearIndex_bounds k hl).2
    fatal := fatal_elim hfatal }

theorem State.Inv.diffStep (curr : Sample) : (diffStep curr s).Inv :=
  { h with
    press := pressFlag_ne_zero
    fatal := fatal_elim hfatal }

theorem State.Inv.assembleStep (mask : KeyMask) (l : Fin totalLayers) : (assembleStep mask l s).Inv :=
  { h with
    batch := assembleStep_batchShape mask l s
    repeatKey := consumerStep_key _ _ h.repeatKey
    fatal := fatal_elim hfatal }

theorem State.Inv.dispatchStep : (dispatchStep s).Inv := by
  have hqueue := dispatchStep_queue_length_le h.queue
  rw [dispatchStep_eq] at hqueue ⊢
  exact { h with
    queue := hqueue
    batch := .empty
    press := nofun
    fatal := fatal_elim hfatal }

theorem State.Inv.scanAssemble : (scanAssemble s).Inv :=
  ((h.emit _).diffStep hfatal _).assembleStep hfatal _ _

/-- Every command's effect keeps the invariant. -/
theorem Body.keepsInv {i : Instr} {u : State} (hb : Body s i u) : u.Inv := by
  cases hb with
  | diff => exact (h.diffStep hfatal _).setDout hfatal _
  | assemble l => exact (h.assembleStep hfatal _ l).setDout hfatal _
  | dispatch => exact (h.dispatchStep hfatal).setDout (by simpa using hfatal) _
  | scan => exact ((h.scanAssemble hfatal).dispatchStep hfatal).setDout (by simpa using hfatal) _
  | kmwrite code l k hw => exact h.writeKeymap hfatal (asWritableEntry_ne_zero hw) k code
  | setlayer l => exact h.setLayer hfatal l
  | seten b =>
    cases b with
    | true => exact h.setReportEnabled hfatal true
    | false => exact (h.setQueue hfatal (q := []) (Nat.zero_le _)).setReportEnabled hfatal false
  | suspend b => exact h.setLink hfatal _
  | resume => exact h.setLink hfatal _
  | txdone => exact h.setSender hfatal _
  | _ => exact h.setDout hfatal _

end

theorem Ran.keepsInv {i : Instr} {s t : State} (h : s.Inv) (hran : Ran i s t) : t.Inv := by
  obtain ⟨st, -, -, rfl⟩ | ⟨hfatal, u, hb, rfl⟩ := hran
  · exact h.setStatus st
  · exact (hb.keepsInv h hfatal).setStatus .ok

theorem senderStep_keepsInv {s : State} (h : s.Inv) : (senderStep s).Inv := by
  obtain ⟨r, q, hfatal, -, hqueue, -, heq⟩ | ⟨hfatal, -, -, -, heq⟩ | ⟨_, hfatal, -, -, heq⟩ | heq :=
    senderStep_cases s <;> rw [heq]
  case inl =>
    have hlength : q.length ≤ queueCap := by
      have := h.queue
      rw [hqueue, List.length_cons] at this
      omega
    exact ((h.emit _).setQueue hfatal hlength).setSender hfatal _
  case inr.inl => exact (h.emit _).setQueue hfatal (Nat.zero_le _)
  case inr.inr.inl => exact (h.emit _).setSender hfatal _
  case inr.inr.inr => exact h

theorem runEvent_keepsInv {e : Event} {s t : State} (h : s.Inv) (hrun : runEvent e s = .next t) : t.Inv := by
  obtain ⟨w, p, i, rfl, -, hran⟩ | ⟨w, p, _, st, rfl, -, rfl⟩ | ⟨now, ok, rfl, rfl⟩ | ⟨ok, rfl, rfl⟩ :=
    runEvent_next hrun
  · exact hran.keepsInv (h.sampled _ p)
  · exact (h.sampled _ p).setStatus st
  · exact senderStep_keepsInv (h.sampled _ _)
  · exact State.Inv.applyReset h.cfg ok

/-! ### What a step does -/

/-- With nothing scheduled a step changes nothing (log 1). -/
theorem step_of_pending_nil {s : State} (hvalid : s.cfg.valid = true) (h : s.pending = []) : step s = .next s := by
  simp [step, nextStep, hvalid, h]

/-- A step runs the event at the head of the schedule (log 1). -/
theorem step_of_pending_cons {s : State} {e : Event} {rest : List Event} (hvalid : s.cfg.valid = true)
    (h : s.pending = e :: rest) : step s = runEvent e { s with pending := rest } := by
  simp [step, nextStep, hvalid, h]

/-! ### The keymap after a reset (R341) -/

theorem keymap_applyReset_zero (s : State) (ok : Bool) (k : Fin numKeys) :
    (s.applyReset ok).keymap 0 k = s.cfg.keymap0[k] := Memory.read_layer0 (Memory.wf_nil s.cfg) k

theorem keymap_applyReset_of_ne_zero (s : State) (ok : Bool) {l : Fin totalLayers} (k : Fin numKeys) (hl : l ≠ 0) :
    (s.applyReset ok).keymap l k = s.cfg.keymapInit.toList.getD (17 * (l.val - 1) + k.val) 0 := by
  have hlow : ¬ linearIndex l k < 17 := Nat.not_lt.2 (linearIndex_bounds k hl).1
  have hindex : linearIndex l k - 17 = 17 * (l.val - 1) + k.val := by
    have hpos : l.val ≠ 0 := fun h => hl (Fin.ext h)
    rw [linearIndex]
    omega
  have hread : (s.applyReset ok).keymap l k = initialEntry s.cfg (linearIndex l k) := rfl
  rw [hread, initialEntry, dif_neg hlow, hindex]

end Sys2Proof.Machine

namespace Sys2Proof.Proofs

open Sys2Proof.Machine

/-- Settles O59: the next event is a command, a rejected word, a turn of the Sender or a reset, and each keeps the
invariant. -/
theorem stepKeepsTheInvariant : Obligations.StepKeepsTheInvariant := by
  intro s t h hstep
  cases hpending : s.pending with
  | nil =>
    rw [step_of_pending_nil h.cfg hpending] at hstep
    injection hstep with hstep
    exact hstep ▸ h
  | cons e rest =>
    rw [step_of_pending_cons h.cfg hpending] at hstep
    exact runEvent_keepsInv (h.sampled rest s.inp) hstep

/-- Settles O58: a reset's values meet every clause, and `State.reset` is such a reset. -/
theorem resetMeetsTheInvariant : Obligations.ResetMeetsTheInvariant := by
  have hvalid : State.reset.cfg.valid = true := by decide
  exact ⟨State.Inv.applyReset hvalid true, fun _ ok h => State.Inv.applyReset h ok⟩

/-- Settles O57: the reset's values by definition, the keymap's from the storage, which lists no cell. -/
theorem resetSetsEveryElement : Obligations.ResetSetsEveryElement := by
  refine ⟨fun s t ok h => ?_, rfl, rfl, rfl, by decide⟩
  injection h with h
  subst h
  exact ⟨rfl, rfl, rfl, rfl, rfl, rfl, rfl, rfl, rfl, rfl, rfl, rfl, rfl, rfl, rfl, rfl, rfl,
    keymap_applyReset_zero s ok, fun _ k hl => keymap_applyReset_of_ne_zero s ok k hl⟩

end Sys2Proof.Proofs
end

section
/-! PROOFS. The statements of 60_exceptions.md and 00_scope.md: steps, refusals, statuses and the fatal state. -/

namespace Sys2Proof

/-! ### The parameter invariants (R7) -/

/-- A code below 0x7000 is no combo (R7, R173). -/
theorem and_comboFlag_ne_of_lt {x : KeyCode} (h : x.toNat < 0x7000) : x &&& 0x7000 ≠ 0x7000 := by
  intro hcombo
  have hle : (x &&& 0x7000).toNat ≤ x.toNat := (BitVec.toNat_and x 0x7000).trans_le Nat.and_le_left
  rw [hcombo] at hle
  exact Nat.not_lt.2 hle h

/-- The entries of a vector are distinct exactly when its list has no duplicate. -/
theorem nodup_toList_iff {n : Nat} {α : Type} (v : Vector α n) :
    v.toList.Nodup ↔ ∀ i j : Fin n, v[i] = v[j] → i = j := by
  have hlist : v.toList = List.ofFn fun i : Fin n => v[i] := by
    apply List.ext_getElem
    · simp
    · intro i _ _
      simp
  rw [hlist, List.nodup_ofFn]
  rfl

/-- The validity a step checks, over numbers. -/
theorem Config.valid_iff (c : Config) : c.valid = true ↔
    c.kcRightGui.toNat = c.kcLeftCtrl.toNat + 7 ∧
    c.consumerSrc[0].toNat ≤ c.consumerSrc[17].toNat ∧
    (c.kcRightGui.toNat < c.consumerSrc[0].toNat ∨ c.consumerSrc[17].toNat < c.kcLeftCtrl.toNat) ∧
    ¬ (c.kcLeftCtrl.toNat ≤ c.kcNo.toNat ∧ c.kcNo.toNat ≤ c.kcRightGui.toNat) ∧
    ¬ (c.consumerSrc[0].toNat ≤ c.kcNo.toNat ∧ c.kcNo.toNat ≤ c.consumerSrc[17].toNat) ∧
    (c.kcNo.toNat < 0x7000 ∧ c.kcRightGui.toNat < 0x7000 ∧ c.consumerSrc[17].toNat < 0x7000) ∧
    ∀ i j : Fin 18, c.consumerSrc[i] = c.consumerSrc[j] → i = j := by
  rw [← nodup_toList_iff]
  simp [Config.valid, Config.inModifierRange, Config.inConsumerRange, Config.kcAudioMute, Config.kcBrightnessDown,
    BitVec.le_def, BitVec.lt_def, and_assoc, -not_and, not_and_or]

/-- Two ranges with their ends in order are disjoint exactly when one lies below the other. -/
theorem ranges_disjoint_iff {a b c d : KeyCode} (hab : a.toNat ≤ b.toNat) (hcd : c.toNat ≤ d.toNat) :
    (∀ x : KeyCode, ¬ ((a.toNat ≤ x.toNat ∧ x.toNat ≤ b.toNat) ∧ c.toNat ≤ x.toNat ∧ x.toNat ≤ d.toNat)) ↔
      b.toNat < c.toNat ∨ d.toNat < a.toNat := by
  constructor
  · intro h
    have ha := h a
    have hc := h c
    omega
  · intro h x
    omega

open Sys2Proof.Claims in
/-- The validity a step checks is R7, clause by clause. -/
theorem Config.valid_iff_parametersMeetR7 (c : Config) : c.valid = true ↔ ParametersMeetR7 c := by
  rw [Config.valid_iff, ParametersMeetR7]
  refine and_congr_right fun hmodifier => and_congr_right fun hconsumer => ?_
  rw [ranges_disjoint_iff (by omega) hconsumer]
  refine and_congr_right fun _ => and_congr_right fun _ => and_congr_right fun _ => and_congr_left fun _ => ?_
  constructor
  · rintro ⟨hno, hgui, hbrightness⟩ x hx
    have hlt : x.toNat < 0x7000 := by
      obtain h | h | rfl := hx <;> omega
    exact ⟨hlt, and_comboFlag_ne_of_lt hlt⟩
  · intro h
    exact ⟨(h _ (.inr (.inr rfl))).1, (h _ (.inl (by omega))).1, (h _ (.inr (.inl ⟨hconsumer, le_rfl⟩))).1⟩

end Sys2Proof

namespace Sys2Proof.Machine

open Sys2Proof.Claims

theorem step_of_invalid {s : State} (h : s.cfg.valid = false) : step s = .refused .invalidConfig := by
  simp [step, nextStep, h]

/-- In a valid configuration every step answers a next state. -/
theorem step_total {s : State} (hvalid : s.cfg.valid = true) : ∃ t, step s = .next t := by
  cases hpending : s.pending with
  | nil => exact ⟨s, step_of_pending_nil hvalid hpending⟩
  | cons e rest =>
    rw [step_of_pending_cons hvalid hpending]
    exact runEvent_total e _

/-- A word that is no command writes its status, or FATAL in the fatal state, and nothing else. -/
theorem runWord_of_decode_error {w : Word} {e : DecodeError} (s : State) (h : decode w = .error e) :
    runWord w s = .next { s with status := if s.fatal then 0x05 else (statusOf e).code } := by
  have hreject : runWord w s = .next (reject (statusOf e) s) := by simp only [runWord, h]
  rw [hreject]
  cases hfatal : s.fatal <;> simp [reject, hfatal, State.setStatus, Status.code]

/-! ### The status of a command by its operands (R301, R302) -/

/-- KMWRITE with a writable entry (R172). -/
theorem exec_kmwrite {layer : BitVec 3} {key : BitVec 5} (code : KeyCode) {s : State} (h0 : layer.toNat ≠ 0)
    (hl : layer.toNat < 7) (hk : key.toNat < 17) (h : s.fatal = false) : exec (.kmwrite layer key code) s =
      .next ((s.writeKeymap ⟨layer.toNat, hl⟩ ⟨key.toNat, hk⟩ code).setStatus .ok) := by
  rw [exec, execKmwrite, asWritableEntry_ok h0 hl hk, runChecked_ok _ _ h]

theorem exec_kmwrite_range {layer : BitVec 3} {key : BitVec 5} (code : KeyCode) {s : State}
    (hrange : ¬ (layer.toNat < 7 ∧ key.toNat < 17)) (h : s.fatal = false) :
    exec (.kmwrite layer key code) s = .next (s.setStatus .range) := by
  rw [exec, execKmwrite, asWritableEntry_range hrange, runChecked_error _ h]

theorem exec_kmwrite_readonly {layer : BitVec 3} {key : BitVec 5} (code : KeyCode) {s : State}
    (h0 : layer.toNat = 0) (hk : key.toNat < 17) (h : s.fatal = false) :
    exec (.kmwrite layer key code) s = .next (s.setStatus .readonly) := by
  rw [exec, execKmwrite, asWritableEntry_readonly h0 hk, runChecked_error _ h]

/-- The outcome of a command's operand check, by its operands alone; `exec_status` ties it to the commands. -/
def operandStatus : Instr → Status
  | .resolve layer key => if layer.toNat < 7 ∧ key.toNat < 17 then .ok else .range
  | .assemble layer => if layer.toNat < 7 then .ok else .range
  | .kmwrite layer key _ =>
    if layer.toNat < 7 ∧ key.toNat < 17 then (if layer.toNat = 0 then .readonly else .ok) else .range
  | .setlayer layer => if layer.toNat < 7 then .ok else .range
  | .rdreg reg => if reg.toNat ≤ 0x0A then .ok else .range
  | _ => .ok

/-- A checked command outside the fatal state ends with OK or with the status of its check's error. -/
theorem runChecked_status_ite {α : Type} {P : Prop} [Decidable P] {chk : Except Status α} {st : Status}
    (hok : P → ∃ a, chk = .ok a) (herror : ¬ P → chk = .error st) (body : α → State → State) {s : State}
    (hfatal : s.fatal = false) :
    ∃ t, runChecked chk body s = .next t ∧ t.status = (if P then Status.ok else st).code := by
  by_cases h : P
  · obtain ⟨a, rfl⟩ := hok h
    exact ⟨_, runChecked_ok a body hfatal, by rw [if_pos h]; rfl⟩
  · rw [herror h]
    exact ⟨_, runChecked_error body hfatal, by rw [if_neg h]; rfl⟩

theorem exec_status (i : Instr) {s : State} (hfatal : s.fatal = false) :
    ∃ t, exec i s = .next t ∧ t.status = (operandStatus i).code := by
  unfold exec
  cases i with
  | resolve layer key =>
    exact runChecked_status_ite (fun h => ⟨_, asEntry_ok h.1 h.2⟩) asEntry_range _ hfatal
  | assemble layer => exact runChecked_status_ite (fun h => ⟨_, asLayer_ok h⟩) asLayer_range _ hfatal
  | kmwrite layer key code =>
    by_cases hrange : layer.toNat < 7 ∧ key.toNat < 17
    · by_cases h0 : layer.toNat = 0
      · exact ⟨_, exec_kmwrite_readonly code h0 hrange.2 hfatal, by simp [operandStatus, hrange, h0]⟩
      · exact ⟨_, exec_kmwrite code h0 hrange.1 hrange.2 hfatal, by simp [operandStatus, hrange, h0]⟩
    · exact ⟨_, exec_kmwrite_range code hrange hfatal, by rw [operandStatus, if_neg hrange]; rfl⟩
  | setlayer layer => exact runChecked_status_ite (fun h => ⟨_, asLayer_ok h⟩) asLayer_range _ hfatal
  | rdreg reg =>
    exact runChecked_status_ite asCsr_ok (fun h => asCsr_range (Nat.lt_of_not_le h)) _ hfatal
  | _ => exact runPlain_status_ok _ hfatal

/-! ### The status of a word by its bits (R302) -/

theorem shiftRight_24_toNat (w : Word) : (w >>> 24).toNat = (opcField w).toNat := by
  rw [BitVec.toNat_ushiftRight, opcField_toNat, Nat.shiftRight_eq_div_pow]

/-- The opcodes that have must-be-0 bits are those of the commands, and the bits are those of the format. -/
theorem zerosOf_eq (opc : Nat) (w : Word) :
    zerosOf opc = (commandOf opc w).map fun i => i.format.reservedMask.toNat := by
  unfold commandOf
  split
  case h_20 => simp_all [zerosOf]
  all_goals rfl

/-- LAYER as R109's range check reads it from the word. -/
theorem and_layerMask_toNat (w : Word) : (w >>> 21 &&& 7#32).toNat = (layerField w).toNat := by
  rw [BitVec.toNat_and, BitVec.toNat_ushiftRight, layerField_toNat, Nat.shiftRight_eq_div_pow]
  exact Nat.and_two_pow_sub_one_eq_mod _ 3

/-- KEY as R109's range check reads it from the word. -/
theorem and_keyMask_toNat (w : Word) : (w >>> 16 &&& 31#32).toNat = (keyField w).toNat := by
  rw [BitVec.toNat_and, BitVec.toNat_ushiftRight, keyField_toNat, Nat.shiftRight_eq_div_pow]
  exact Nat.and_two_pow_sub_one_eq_mod _ 5

/-- REG as R109's range check reads it from the word. -/
theorem and_regMask_toNat (w : Word) : (w &&& 255#32).toNat = (regField w).toNat := by
  rw [BitVec.toNat_and, regField_toNat]
  exact Nat.and_two_pow_sub_one_eq_mod _ 8

theorem layer_out_of_range_iff (w : Word) : w >>> 21 &&& 7#32 = 7#32 ↔ ¬ (layerField w).toNat < 7 := by
  rw [← BitVec.toNat_inj, and_layerMask_toNat]
  have := (layerField w).isLt
  show _ = 7 ↔ _
  omega

theorem layer_is_zero_iff (w : Word) : w >>> 21 &&& 7#32 = 0#32 ↔ (layerField w).toNat = 0 := by
  rw [← BitVec.toNat_inj, and_layerMask_toNat]
  rfl

theorem key_out_of_range_iff (w : Word) : 17#32 ≤ w >>> 16 &&& 31#32 ↔ ¬ (keyField w).toNat < 17 := by
  rw [BitVec.le_def, and_keyMask_toNat, Nat.not_lt]
  rfl

theorem reg_out_of_range_iff (w : Word) : 11#32 ≤ w &&& 255#32 ↔ ¬ (regField w).toNat ≤ 0x0A := by
  rw [BitVec.le_def, and_regMask_toNat, Nat.not_le]
  rfl

/-- The range check and the read-only check of R302 by the word's bits are the operand check of its command. -/
theorem operandStatus_of_bits (i : Instr) (w : Word) :
    (operandStatus (i.reread w)).code =
      if outOfRange i.opcode w then 0x03
      else if i.opcode = 0x0D ∧ w >>> 21 &&& 7#32 = 0#32 then 0x04
      else 0x00 := by
  simp only [outOfRange, decide_eq_true_eq, layer_out_of_range_iff, layer_is_zero_iff, key_out_of_range_iff,
    reg_out_of_range_iff]
  by_cases hlayer : (layerField w).toNat < 7 <;> by_cases hkey : (keyField w).toNat < 17 <;> cases i with
  | kmwrite =>
    by_cases hzero : (layerField w).toNat = 0 <;>
      simp [Instr.opcode, Instr.reread, operandStatus, Status.code, hlayer, hkey, hzero]
  | rdreg =>
    by_cases hreg : (regField w).toNat ≤ 0x0A <;>
      simp [Instr.opcode, Instr.reread, operandStatus, Status.code, hreg]
  | _ => simp [Instr.opcode, Instr.reread, operandStatus, Status.code, hlayer, hkey]

/-- The order of checks of R302 is that of the decoder and then of the command. -/
theorem statusOfWord_eq (w : Word) : statusOfWord false w =
    match decode w with
    | .ok i => (operandStatus i).code
    | .error e => (statusOf e).code := by
  unfold statusOfWord decode
  simp only [shiftRight_24_toNat, zerosOf_eq _ w]
  cases hcommand : commandOf (opcField w).toNat w with
  | none => rfl
  | some i =>
    obtain ⟨hopcode, hreread⟩ := opcode_of_commandOf hcommand
    by_cases hzero : w &&& i.format.reservedMask = 0
    · have hbits := operandStatus_of_bits i w
      rw [hreread] at hbits
      simp [(i.format.reservedIsZero_iff w).2 hzero, hzero, ← hopcode, hbits]
    · have hset := Bool.eq_false_iff.2 (mt (i.format.reservedIsZero_iff w).1 hzero)
      have hmask : w &&& i.format.reservedMask ≠ 0#32 := hzero
      simp [hset, hmask, statusOf, Status.code]

/-- Every word in the fatal state writes FATAL and nothing else (R304). -/
theorem runWord_fatal (w : Word) {s : State} (hfatal : s.fatal = true) :
    runWord w s = .next { s with status := 0x05 } := by
  cases hdecode : decode w with
  | ok i =>
    rw [runWord, hdecode]
    exact exec_fatal i hfatal
  | error e =>
    rw [runWord_of_decode_error s hdecode, hfatal, if_pos rfl]

theorem runWord_status (w : Word) (s : State) :
    ∃ t, runWord w s = .next t ∧ t.status = statusOfWord s.fatal w := by
  cases hfatal : s.fatal with
  | true => exact ⟨_, runWord_fatal w hfatal, rfl⟩
  | false =>
    rw [statusOfWord_eq, runWord]
    cases decode w with
    | ok i => exact exec_status i hfatal
    | error e => exact ⟨_, rfl, by simp [reject, hfatal]⟩

/-! ### The fatal state -/

theorem treatment_eq_fault_iff (s : State) : s.treatment = .fault ↔ s.fatal = true := by
  cases hfatal : s.fatal with
  | true => simp [treatment_of_fatal hfatal]
  | false =>
    rw [treatment_of_not_fatal hfatal]
    split <;> simp

/-- A turn of the Sender in the fatal state (R239, R304). -/
theorem senderStep_of_fatal {s : State} (hfatal : s.fatal = true) : senderStep s = s := by
  simp [senderStep, hfatal]

/-- The state a reset with INIT_OK = 1 leaves is accepted. -/
theorem treatment_applyReset_true (s : State) : (s.applyReset true).treatment = .accepted :=
  treatment_of_not_fatal rfl

end Sys2Proof.Machine

namespace Sys2Proof.Proofs

open Sys2Proof.Machine

/-- Settles O6: the validity is R7 over numbers, and the step's refusal is the one way not to answer a next state. -/
theorem onlyInvalidConfigurationIsRefused : Obligations.OnlyInvalidConfigurationIsRefused := by
  intro s
  rw [← s.cfg.valid_iff_parametersMeetR7]
  exact ⟨Iff.rfl, fun h => step_of_invalid (Bool.eq_false_iff.2 h), step_total⟩

/-- Settles O5: the head of the schedule, event by event. -/
theorem stepRunsTheDecodedCommand : Obligations.StepRunsTheDecodedCommand := by
  intro s hvalid
  refine ⟨fun w p rest i hpending hdecode => ?_, fun w p rest e hpending hdecode => ?_,
    fun t ok rest hpending => step_of_pending_cons hvalid hpending,
    fun ok rest hpending => step_of_pending_cons hvalid hpending, step_of_pending_nil hvalid, fun n w i hdecode => ?_⟩
  · rw [step_of_pending_cons hvalid hpending, runEvent, runWord, hdecode]
  · rw [step_of_pending_cons hvalid hpending]
    cases e with
    | illegalOpcode => exact runWord_of_decode_error _ hdecode
    | reserved => exact runWord_of_decode_error _ hdecode
  · have hword : decode (tableWord n w) = .ok i := by
      unfold decodeTableWord at hdecode
      split at hdecode <;> simp_all
    have hstep : step (s.withFetchWord n w) = runWord (tableWord n w) s :=
      step_of_pending_cons (s := s.withFetchWord n w) hvalid rfl
    rw [hstep, runWord, hword]

/-- Settles O7: FATAL first, then the decoder's two checks, then the command's operand check. -/
theorem statusOfEveryWord : Obligations.StatusOfEveryWord := runWord_status

/-- Settles O8: of the two things a command can do, only a rejection ends with another status than OK. -/
theorem rejectedCommandChangesOnlyStatus : Obligations.RejectedCommandChangesOnlyStatus := by
  intro i s t h hstatus
  obtain ⟨st, -, -, rfl⟩ | ⟨-, u, -, rfl⟩ := exec_next h
  · rfl
  · exact absurd rfl hstatus

/-- Settles O10: `fatal` is what every event but a reset keeps, and a reset sets to NOT INIT_OK. -/
theorem fatalStateOnlyLeavesByReset : Obligations.FatalStateOnlyLeavesByReset := by
  refine ⟨fun s hfatal => ⟨fun w => runWord_fatal w hfatal, senderStep_of_fatal hfatal, fun _ => rfl,
    treatment_of_fatal hfatal, ?_, ?_⟩, ?_, ?_⟩
  · simp [isFinal_iff, hfatal]
  · simp [State.shows, isFinal_iff, hfatal]
  · intro s t h
    have hfatal : t.fatal = true := runEvent_fatal h
    injection h with h
    exact ⟨h ▸ rfl, treatment_of_fatal hfatal⟩
  · intro e s t h
    have hfatal := runEvent_fatal h
    simp only [treatment_eq_fault_iff, ne_eq]
    cases e with
    | command w p => simp_all
    | sender now ok => simp_all
    | reset ok =>
      injection h with h
      subst h
      cases ok with
      | true => exact ⟨fun _ => .inr ⟨rfl, treatment_applyReset_true s, (isFinal_iff _).2 rfl⟩, nofun⟩
      | false => exact ⟨fun _ => .inl rfl, fun _ _ => rfl⟩

end Sys2Proof.Proofs
end

section
/-! PROOFS. The statements of 40_debounce.md, 41_transition.md and 20_memory.md on samples: the whole DIFF, the sample
bits beyond the keys, and the order of a capture's clocks. -/

namespace Sys2Proof.Machine

open Sys2Proof.Claims

/-! ### DIFF -/

/-- DIFF outside the fatal state (R154). -/
theorem exec_diff {s : State} (h : s.fatal = false) :
    exec .diff s = .next (((diffStep (samplePort s.inp.din0) s).setDout
      ((changedKeys s.cfg s.prev (samplePort s.inp.din0)).setWidth 32)).setStatus .ok) := by
  rw [exec, execDiff, runPlain_ok _ h]

/-- The mask of changed keys, by key (R150). -/
theorem changedKeys_eq_keyBit (cfg : Config) (prev curr : Sample) :
    changedKeys cfg prev curr = BitVec.ofFnLE fun k : Fin 17 => keyBit cfg curr k != keyBit cfg prev k :=
  changedKeys_eq_ofFnLE cfg prev curr

/-- The records of a diff, key by key: an event and its LED call for each changed key (R150, R151). -/
theorem diffRecords_eq_flatMap (cfg : Config) (prev curr : Sample) :
    diffRecords cfg prev curr = (List.finRange 17).flatMap fun k =>
      if keyBit cfg curr k ≠ keyBit cfg prev k then keyRecords cfg k (keyBit cfg curr k) else [] := by
  rw [diffRecords, flatMap_pressedKeys]
  refine congrArg (List.flatMap · (List.finRange 17)) (funext fun k => ?_)
  simp only [changedKeys_getLsbD, keyBits_getLsbD, bne_iff_ne]
  rfl

/-- `cyc_press`, by key (R153). -/
theorem pressFlag_changedKeys (cfg : Config) (prev curr : Sample) :
    pressFlag (changedKeys cfg prev curr) (keyBits cfg curr) =
      decide (∃ k, keyBit cfg curr k ≠ keyBit cfg prev k ∧ keyBit cfg curr k = true) := by
  rw [Bool.eq_iff_iff, pressFlag_iff, decide_eq_true_iff]
  simp only [changedKeys_getLsbD, keyBits_getLsbD, bne_iff_ne]
  rfl

/-! ### What a sample's key bits determine -/

/-- The changed keys depend on the key bits of the two samples alone. -/
theorem changedKeys_congr {cfg : Config} {prev prev' curr curr' : Sample} (hprev : keyBits cfg prev = keyBits cfg prev')
    (hcurr : keyBits cfg curr = keyBits cfg curr') : changedKeys cfg prev curr = changedKeys cfg prev' curr' := by
  rw [changedKeys, changedKeys, keyBits_xor, keyBits_xor, hprev, hcurr]

/-- The records of a diff depend on the key bits of the two samples alone. -/
theorem diffRecords_congr {cfg : Config} {prev prev' curr curr' : Sample} (hprev : keyBits cfg prev = keyBits cfg prev')
    (hcurr : keyBits cfg curr = keyBits cfg curr') : diffRecords cfg prev curr = diffRecords cfg prev' curr' := by
  rw [diffRecords, diffRecords, changedKeys_congr hprev hcurr, hcurr]

/-- DIFF's body on samples with the same key bits ends alike but for `prev`. -/
theorem diffStep_congr {s : State} {prev' curr curr' : Sample} (hprev : keyBits s.cfg s.prev = keyBits s.cfg prev')
    (hcurr : keyBits s.cfg curr = keyBits s.cfg curr') (p : Inputs) :
    diffStep curr' { s with
      prev := prev'
      inp := p } = { diffStep curr s with
      prev := curr'
      inp := p } := by
  simp only [diffStep, State.emit, changedKeys_congr hprev hcurr, diffRecords_congr hprev hcurr, hcurr]

/-- Under the reference map the key bits of two samples agree when their low 17 bits do (R78). -/
theorem keyBits_eq_of_extract_eq {cfg : Config} (h : cfg.keyBitMap = Config.reference.keyBitMap) {x y : Sample}
    (hxy : x.extractLsb' 0 17 = y.extractLsb' 0 17) : keyBits cfg x = keyBits cfg y := by
  rw [keyBits_reference h, keyBits_reference h, hxy]

/-- The low 17 bits of a data port are those of the sample on it. -/
theorem extract_samplePort (w : Word) : (samplePort w).extractLsb' 0 17 = w.extractLsb' 0 17 := by
  apply BitVec.eq_of_getLsbD_eq
  intro i hi
  simp [samplePort, hi]

/-! ### SCAN -/

/-- SCAN outside the fatal state (R270). -/
theorem exec_scan {s : State} (h : s.fatal = false) :
    exec .scan s = .next (((dispatchStep (scanAssemble s)).setDout
      (scanDout (scanAssemble s).cycPress (scanAssemble s).wakes)).setStatus .ok) := by
  rw [exec, execScan, runPlain_ok _ h]

/-- A state with its stored sample, ports and records replaced: what two SCANs with the same key bits may differ in. -/
def State.withSample (x : Sample) (p : Inputs) (tr : List Record) (s : State) : State :=
  { s with
    prev := x
    inp := p
    trace := tr }

/-- The states SCANs reach before dispatch, from two states whose samples have the same key bits. -/
theorem scanAssemble_withSample {s : State} {prev' : Sample} {p : Inputs} (hnow : p.now = s.inp.now)
    (hprev : keyBits s.cfg s.prev = keyBits s.cfg prev')
    (hsample : keyBits s.cfg (scanSample s) = keyBits s.cfg (debounce p.raw0 p.raw1)) :
    scanAssemble (s.withSample prev' p s.trace) = (scanAssemble s).withSample (debounce p.raw0 p.raw1) p
      (s.trace ++ [.capture (clockedBits p.raw0), .capture (clockedBits p.raw1)] ++
        diffRecords s.cfg s.prev (scanSample s)) := by
  have hchanged := changedKeys_congr hprev hsample
  have hrecords := diffRecords_congr hprev hsample
  simp only [scanSample] at hsample hchanged hrecords
  simp only [scanAssemble, assembleStep, diffStep, captureStep, scanSample, State.emit, State.pressedCodes,
    State.keymap, State.withSample, hnow, hsample, hchanged, hrecords]

/-- DISPATCH's body reads nothing of `prev` and the records, and of the ports the wakeup answer alone. -/
theorem dispatchStep_withSample (s : State) (x : Sample) {p : Inputs} (tr : List Record)
    (hanswer : p.wakeOk = s.inp.wakeOk) :
    dispatchStep (s.withSample x p tr) =
      (dispatchStep s).withSample x p (tr ++ if s.wakes then wakeRecords s.inp.wakeOk else []) := by
  simp only [dispatchStep_eq, State.withSample, hanswer]
  rfl

/-- Two SCANs from states whose samples have the same key bits end alike but for `prev`, the ports and the capture
records. -/
theorem exec_scan_withSample {s : State} {prev' : Sample} {p : Inputs} (hfatal : s.fatal = false)
    (hnow : p.now = s.inp.now) (hanswer : p.wakeOk = s.inp.wakeOk) (hprev : keyBits s.cfg s.prev = keyBits s.cfg prev')
    (hsample : keyBits s.cfg (scanSample s) = keyBits s.cfg (debounce p.raw0 p.raw1)) :
    ∃ t new, exec .scan s = .next t ∧
      t.trace = s.trace ++ [.capture (clockedBits s.inp.raw0), .capture (clockedBits s.inp.raw1)] ++ new ∧
      exec .scan (s.withSample prev' p s.trace) = .next (t.withSample (debounce p.raw0 p.raw1) p
        (s.trace ++ [.capture (clockedBits p.raw0), .capture (clockedBits p.raw1)] ++ new)) := by
  have hfatal' : (s.withSample prev' p s.trace).fatal = false := hfatal
  refine ⟨_, diffRecords s.cfg s.prev (scanSample s) ++
    if (scanAssemble s).wakes then wakeRecords s.inp.wakeOk else [], exec_scan hfatal, ?_, ?_⟩
  · simp
  · rw [exec_scan hfatal', scanAssemble_withSample hnow hprev hsample, dispatchStep_withSample (scanAssemble s) _ _ hanswer,
      ← List.append_assoc]
    rfl

/-! ### The clocked bits (R49, R77) -/

theorem sampleByte_getLsbD (x : Sample) (i : Nat) {n : Nat} (hn : n < 8) :
    (sampleByte x i).getLsbD n = x.getLsbD (8 * i + n) := by
  simp [sampleByte, hn]

theorem clockedBits_length (x : Sample) : (clockedBits x).length = 24 := by simp [clockedBits]

theorem clockedBits_getElem? (x : Sample) {i n : Nat} (hi : i < 3) (hn : n < 8) :
    (clockedBits x)[8 * i + n]? = some (x.getLsbD (8 * i + (7 - n))) := by
  have hdiv : (8 * i + n) / 8 = i := by omega
  have hmod : 7 - (8 * i + n) % 8 = 7 - n := by omega
  have hlt : 8 * i + n < sampleBits := by unfold sampleBits; omega
  rw [clockedBits, List.getElem?_map, List.getElem?_range hlt, Option.map_some, hdiv, hmod,
    sampleByte_getLsbD x i (by omega)]

/-- Every bit of a sample is clocked, so the clocked bits determine it. -/
theorem clockedBits_injective {x y : Sample} (h : clockedBits x = clockedBits y) : x = y := by
  apply BitVec.eq_of_getLsbD_eq
  intro m hm
  have hbit := congrArg (·[8 * (m / 8) + (7 - m % 8)]?) h
  simp only [clockedBits_getElem? _ (show m / 8 < 3 by omega) (show 7 - m % 8 < 8 by omega), Option.some.injEq] at hbit
  have hindex : 8 * (m / 8) + (7 - (7 - m % 8)) = m := by omega
  rwa [hindex] at hbit

end Sys2Proof.Machine

namespace Sys2Proof.Proofs

open Sys2Proof.Machine Sys2Proof.Claims

/-- Settles O47: bit `n` of byte `i` in the order clocked is bit `7 - n` of that byte. -/
theorem capturesClockMsbFirst : Obligations.CapturesClockMsbFirst :=
  ⟨fun x _ _ => clockedBits_getElem? x, clockedBits_length, fun _ _ => clockedBits_injective⟩

/-- Settles O13: DIFF's records, its press flag and its mask, each read key by key through KEY_BIT_MAP. -/
theorem diffEmitsOneEventPerChangedKey : Obligations.DiffEmitsOneEventPerChangedKey := by
  refine ⟨fun s curr hfatal hcurr => ?_, fun s x y hmap => ?_, fatalRejects .diff,
    commandWord_of_reread (f := .fn) (fun _ => rfl) (fun _ => rfl) fun _ => rfl⟩
  · have hsample : samplePort s.inp.din0 = curr := hcurr.symm
    rw [exec_diff hfatal, hsample, diffStep, diffRecords_eq_flatMap, pressFlag_changedKeys, changedKeys_eq_keyBit]
    rfl
  · rw [← changedKeys_eq_keyBit, changedKeys, keyBits_reference hmap]

/-- Settles O14: under the reference map the keys are the low 17 bits, and DIFF and SCAN read nothing else of the
samples but to store them; FILTER is a plain OR of all 24 bits. -/
theorem extraSampleBitsChangeNothing : Obligations.ExtraSampleBitsChangeNothing := by
  refine ⟨fun s prev' raw0' raw1' hmap hfatal hprev hraw0 hraw1 => ?_,
    fun s prev' din0' hmap hfatal hprev hdin => ?_, fun s hfatal => ⟨_, exec_filter hfatal, rfl, rfl, fun n hn => ?_⟩⟩
  · have hsample : keyBits s.cfg (scanSample s) = keyBits s.cfg (debounce raw0' raw1') := by
      apply keyBits_eq_of_extract_eq hmap
      rw [scanSample, debounce_eq_or, debounce_eq_or, BitVec.extractLsb'_or, BitVec.extractLsb'_or, hraw0, hraw1]
    obtain ⟨t, new, hscan, htrace, hscan'⟩ := exec_scan_withSample (p := { s.inp with
      raw0 := raw0'
      raw1 := raw1' }) hfatal rfl rfl (keyBits_eq_of_extract_eq hmap hprev) hsample
    refine ⟨t, _, hscan, hscan', ?_, ?_⟩
    · simp [htrace, State.withSample, isCapture]
    · simp only [State.withSample, debounce_eq_or]
  · have hsample : keyBits s.cfg (samplePort s.inp.din0) = keyBits s.cfg (samplePort din0') := by
      apply keyBits_eq_of_extract_eq hmap
      rw [extract_samplePort, extract_samplePort, hdin]
    have hkeys := keyBits_eq_of_extract_eq hmap hprev
    refine ⟨_, exec_diff hfatal, ?_⟩
    rw [exec_diff (by exact hfatal)]
    dsimp only
    rw [diffStep_congr hkeys hsample, changedKeys_congr hkeys hsample]
    rfl
  · have hlt : n < 32 := by omega
    simp [debounce_eq_or, samplePort, hn, hlt]

end Sys2Proof.Proofs
end

section
/-! PROOFS. The statements of 42_keymap.md: RESOLVE and KMWRITE, the combo round trip, classes and translation. -/

namespace Sys2Proof.Machine

open Sys2Proof.Claims

/-! ### RESOLVE outside the fatal state; KMWRITE is with the statuses above -/

/-- RESOLVE with an entry in range (R171). -/
theorem exec_resolve {layer : BitVec 3} {key : BitVec 5} {s : State} (hl : layer.toNat < 7) (hk : key.toNat < 17)
    (h : s.fatal = false) : exec (.resolve layer key) s =
      .next ((s.setDout ((s.keymap ⟨layer.toNat, hl⟩ ⟨key.toNat, hk⟩).setWidth 32)).setStatus .ok) := by
  rw [exec, execResolve, asEntry_ok hl hk, runChecked_ok _ _ h]

theorem exec_resolve_range {layer : BitVec 3} {key : BitVec 5} {s : State}
    (hrange : ¬ (layer.toNat < 7 ∧ key.toNat < 17)) (h : s.fatal = false) :
    exec (.resolve layer key) s = .next (s.setStatus .range) := by
  rw [exec, execResolve, asEntry_range hrange, runChecked_error _ h]

/-- After a command that ended with OK, a command that only computes DOUT changes DOUT alone. -/
theorem setStatus_setDout_of_ok {t : State} (v : Word) (h : t.status = 0) :
    (t.setDout v).setStatus .ok = { t with dout := v } := by
  have hcode : Status.ok.code = t.status := h.symm
  rw [State.setStatus, State.setDout, hcode]

/-! ### A combo code's parts (R173 to R176, R183) -/

/-- The code MKCOMBO builds from its operands. -/
def comboCode (base : BitVec 8) (mods : BitVec 4) : KeyCode := comboFlag ||| mkcomboBase base ||| mkcomboMods mods

theorem comboCode_and_comboFlag (base : BitVec 8) (mods : BitVec 4) :
    comboCode base mods &&& 0x7000 = 0x7000 := by
  apply BitVec.eq_of_getLsbD_eq
  intro i hi
  interval_cases i <;> simp [comboCode, comboFlag, mkcomboBase, mkcomboMods]

theorem comboBase_comboCode (base : BitVec 8) (mods : BitVec 4) :
    comboBase (comboCode base mods) = mkcomboBase base := by
  apply BitVec.eq_of_getLsbD_eq
  intro i hi
  interval_cases i <;> simp [comboBase, baseMask, comboCode, comboFlag, mkcomboBase, mkcomboMods]

theorem modifierMask_comboCode (base : BitVec 8) (mods : BitVec 4) :
    modifierMask (comboCode base mods) = mkcomboMods mods := by
  apply BitVec.eq_of_getLsbD_eq
  intro i hi
  interval_cases i <;> simp [modifierMask, modField, comboCode, comboFlag, mkcomboBase, mkcomboMods]

/-- A modifier operand on DOUT, at bits 11:8. -/
theorem setWidth_mkcomboMods (mods : BitVec 4) : (mkcomboMods mods).setWidth 32 = mods.setWidth 32 <<< 8 := by
  apply BitVec.eq_of_getLsbD_eq
  intro i hi
  interval_cases i <;> simp [mkcomboMods]

/-! ### Classes (R178) -/

/-- The class number, by the tests in their order. -/
theorem classify_number (cfg : Config) (c : KeyCode) : (classify cfg c).number =
    if c = cfg.kcNo then 0
    else if c &&& 0x7000 = 0x7000 then 1
    else if cfg.kcLeftCtrl ≤ c ∧ c ≤ cfg.kcRightGui then 2
    else if cfg.consumerSrc[0] ≤ c ∧ c ≤ cfg.consumerSrc[17] then 3
    else if c < 0x7000 then 4
    else 5 := by
  simp only [classify, isCombo_iff, Config.inModifierRange, Config.inConsumerRange, decide_eq_true_eq, apply_ite Class.number]
  rfl

/-- A code is a combo when its bits 14:12 are all 1. -/
theorem and_comboFlag_eq_iff (c : KeyCode) : c &&& 0x7000 = 0x7000 ↔ c.toNat / 2 ^ 12 % 8 = 7 := by
  have hfield : c &&& (0x7000 : KeyCode) = (c.extractLsb' 12 3).setWidth 16 <<< 12 := by
    apply BitVec.eq_of_getLsbD_eq
    intro i hi
    interval_cases i <;> simp
  rw [hfield, ← BitVec.toNat_inj]
  simp only [BitVec.toNat_shiftLeft, BitVec.toNat_setWidth, BitVec.extractLsb'_toNat, Nat.shiftRight_eq_div_pow,
    Nat.shiftLeft_eq, BitVec.ofNat_eq_ofNat, BitVec.toNat_ofNat]
  omega

/-- The classes under the reference code values are ranges of the u16 space (R121). -/
theorem classify_number_reference {cfg : Config} (hno : cfg.kcNo = 0) (hctrl : cfg.kcLeftCtrl = 0x00E0)
    (hgui : cfg.kcRightGui = 0x00E7) (hsrc : cfg.consumerSrc = Config.reference.consumerSrc) (c : KeyCode) :
    (classify cfg c).number =
      if c.toNat = 0 then 0
      else if 0x00E0 ≤ c.toNat ∧ c.toNat ≤ 0x00E7 then 2
      else if 0x00A8 ≤ c.toNat ∧ c.toNat ≤ 0x00BE then 3
      else if c.toNat < 0x7000 then 4
      else if c.toNat < 0x8000 ∨ 0xF000 ≤ c.toNat then 1
      else 5 := by
  have hmute : cfg.consumerSrc[0] = 0x00A8 := by rw [hsrc]; rfl
  have hdown : cfg.consumerSrc[17] = 0x00BE := by rw [hsrc]; rfl
  have hzero : c = 0 ↔ c.toNat = 0 := BitVec.toNat_inj.symm
  rw [classify_number, hno, hctrl, hgui, hmute, hdown]
  simp only [hzero, and_comboFlag_eq_iff]
  have := c.isLt
  split_ifs <;> bv_omega

/-- CLASSIFY outside the fatal state (R179). -/
theorem exec_classify {s : State} (code : KeyCode) (h : s.fatal = false) :
    exec (.classify code) s = .next ((s.setDout (classify s.cfg code).number).setStatus .ok) := by
  rw [exec, execClassify, runPlain_ok _ h]

/-! ### Translation (R180, R181) -/

/-- Looking up the `i`-th of distinct keys in a list of pairs gives the `i`-th value. -/
theorem lookup_zip_getElem {α β : Type} [BEq α] [LawfulBEq α] {ks : List α} {vs : List β} (hnodup : ks.Nodup) {i : Nat}
    (hk : i < ks.length) (hv : i < vs.length) : (ks.zip vs).lookup ks[i] = some vs[i] := by
  induction ks generalizing vs i with
  | nil => exact absurd hk (Nat.not_lt_zero i)
  | cons k ks ih =>
    cases vs with
    | nil => exact absurd hv (Nat.not_lt_zero i)
    | cons v vs =>
      obtain ⟨hnotin, hnodup⟩ := List.nodup_cons.1 hnodup
      cases i with
      | zero => simp
      | succ i =>
        have hi : i < ks.length := Nat.lt_of_succ_lt_succ hk
        have hne : (ks[i] == k) = false := beq_false_of_ne fun h => hnotin (h ▸ List.getElem_mem hi)
        simp only [List.getElem_cons_succ, List.zip_cons_cons, List.lookup_cons, hne]
        exact ih hnodup hi (Nat.lt_of_succ_lt_succ hv)

/-- A key that is none of the keys has no value. -/
theorem lookup_zip_eq_none {α β : Type} [BEq α] [LawfulBEq α] {ks : List α} (vs : List β) {k : α} (h : k ∉ ks) :
    (ks.zip vs).lookup k = none := by
  rw [List.lookup_eq_none_iff]
  intro p hp
  exact bne_iff_ne.2 fun heq => h (heq ▸ (List.of_mem_zip hp).1)

/-- In a valid configuration the `i`-th consumer code translates to the `i`-th usage. -/
theorem cxlate_consumerSrc {cfg : Config} (hvalid : cfg.valid = true) (i : Fin 18) :
    cxlate cfg cfg.consumerSrc[i] = usageTable.getD i.val 0 := by
  have hnodup : cfg.consumerSrc.toList.Nodup :=
    (nodup_toList_iff _).2 (cfg.valid_iff.1 hvalid).2.2.2.2.2.2
  have hlookup := lookup_zip_getElem (vs := usageTable) hnodup (i := i.val) (by simp) i.isLt
  have hindex : cfg.consumerSrc.toList[i.val]'(by simp) = cfg.consumerSrc[i] := Vector.getElem_toList _
  rw [hindex] at hlookup
  rw [cxlate, hlookup, Option.getD_some, List.getD_eq_getElem _ _ i.isLt]

/-- A code that is no consumer code translates to 0. -/
theorem cxlate_of_forall_ne {cfg : Config} {c : KeyCode} (h : ∀ i : Fin 18, c ≠ cfg.consumerSrc[i]) :
    cxlate cfg c = 0 := by
  have hnotin : c ∉ cfg.consumerSrc.toList := by
    intro hmem
    obtain ⟨i, hi, rfl⟩ := List.getElem_of_mem hmem
    exact h ⟨i, by simpa using hi⟩ (Vector.getElem_toList _)
  rw [cxlate, lookup_zip_eq_none _ hnotin, Option.getD_none]

/-- CXLATE outside the fatal state (R181). -/
theorem exec_cxlate {s : State} (code : KeyCode) (h : s.fatal = false) :
    exec (.cxlate code) s = .next ((s.setDout ((cxlate s.cfg code).setWidth 32)).setStatus .ok) := by
  rw [exec, execCxlate, runPlain_ok _ h]

end Sys2Proof.Machine

namespace Sys2Proof.Proofs

open Sys2Proof.Machine

/-- Settles O15: RESOLVE's operand check, then a read of the entry named. -/
theorem resolveReadsTheEntry : Obligations.ResolveReadsTheEntry := by
  refine ⟨fun l k s hl hk h => exec_resolve hl hk h, fun l k s hrange h => exec_resolve_range (by omega) h,
    fun l k => fatalRejects (.resolve l k), ?_⟩
  exact commandWord_of_reread (f := .flk) (fun _ => rfl) (fun _ => rfl) fun _ => rfl

/-- Settles O16: KMWRITE's operand check, then a write that every other entry outlives. -/
theorem kmwriteSetsOneEntry : Obligations.KmwriteSetsOneEntry := by
  refine ⟨fun l k v s hl hk h0 h => ⟨_, exec_kmwrite v h0 hl hk h, rfl, ?_, fun l' k' hne => ?_⟩,
    fun l k v s hrange h => exec_kmwrite_range v (by omega) h,
    fun k v s hk h => exec_kmwrite_readonly v rfl hk h, fun l k v => fatalRejects (.kmwrite l k v), ?_⟩
  · exact (keymap_writeKeymap s _ _ _ _ v).trans (if_pos ⟨rfl, rfl⟩)
  · exact (keymap_writeKeymap s _ _ _ _ v).trans (if_neg fun ⟨hl', hk'⟩ => hne (Prod.ext hl' hk'))
  · exact commandWord_of_reread (f := .flkc) (fun _ => rfl) (fun _ => rfl) fun _ => rfl

/-- Settles O20: MKCOMBO's DOUT holds the code, whose flag, base and modifier field are the operands. -/
theorem comboRoundTrip : Obligations.ComboRoundTrip := by
  intro m b s h
  obtain ⟨t, hexec, hfatal, hok, hcode⟩ : ∃ t, exec (.mkcombo m b) s = .next t ∧ t.fatal = false ∧ t.status = 0 ∧
      t.dout.setWidth 16 = comboCode b m := ⟨_, exec_mkcombo m b h, h, rfl, by simp [comboCode]⟩
  refine ⟨t, hexec, ?_, ?_, ?_⟩
  · rw [exec_iscombo _ hfatal, setStatus_setDout_of_ok _ hok, hcode, if_pos (comboCode_and_comboFlag b m)]
  · rw [exec_base _ hfatal, setStatus_setDout_of_ok _ hok, hcode, comboBase_comboCode, mkcomboBase]
    simp
  · rw [exec_modmask _ hfatal, setStatus_setDout_of_ok _ hok, hcode, modifierMask_comboCode, setWidth_mkcomboMods]

/-- Settles O21: the classes' numbers in the order of the tests; under the reference values each test is a range. -/
theorem classifyNumbersTheClasses : Obligations.ClassifyNumbersTheClasses := by
  refine ⟨fun c s h => ?_, fun cfg c hno hctrl hgui hsrc => classify_number_reference hno hctrl hgui hsrc c,
    fun c => fatalRejects (.classify c), ?_⟩
  · rw [exec_classify c h, classify_number]
    rfl
  · exact commandWord_of_reread (f := .fc) (fun _ => rfl) (fun _ => rfl) fun _ => rfl

/-- Settles O22: a lookup among eighteen distinct codes. -/
theorem cxlateTranslatesTheTable : Obligations.CxlateTranslatesTheTable := by
  refine ⟨fun c s h hvalid => ⟨_, exec_cxlate c h, ?_, cxlate_of_forall_ne⟩, fun c => fatalRejects (.cxlate c), ?_⟩
  · rintro i rfl
    exact cxlate_consumerSrc hvalid i
  · exact commandWord_of_reread (f := .fc) (fun _ => rfl) (fun _ => rfl) fun _ => rfl

end Sys2Proof.Proofs
end

section
/-! PROOFS. The statements of 43_assembler.md: the contributions of the pressed keys, the whole ASSEMBLE, and the
consumer state machine. -/

namespace Sys2Proof.Machine

open Sys2Proof.Claims

/-! ### One key's contribution, field by field (R201, R202) -/

theorem contribute_regular (cfg : Config) (acc : Contribution) (code : KeyCode) :
    (contribute cfg acc code).regular = acc.regular ++
      if classify cfg code = .combo ∨ classify cfg code = .plain then [code.extractLsb' 0 8] else [] := by
  unfold contribute
  cases classify cfg code <;> simp

theorem contribute_cons (cfg : Config) (acc : Contribution) (code : KeyCode) :
    (contribute cfg acc code).cons =
      if classify cfg code = .consumer ∧ cxlate cfg code ≠ 0 then cxlate cfg code else acc.cons := by
  unfold contribute
  cases classify cfg code <;> simp

theorem contribute_modifier (cfg : Config) (acc : Contribution) (code : KeyCode) {n : Nat} (hn : n < 8) :
    (contribute cfg acc code).modifier.getLsbD n = true ↔ acc.modifier.getLsbD n = true ∨
      (classify cfg code = .combo ∧ n < 4 ∧ code.getLsbD (8 + n) = true) ∨
      (classify cfg code = .modifier ∧ (code - cfg.kcLeftCtrl).toNat = n) := by
  unfold contribute
  cases classify cfg code with
  | combo => simp [hn]
  | modifier => simp [getLsbD_one_shift _ _ hn]
  | _ => simp

/-! ### The contributions of a list of codes, in key order -/

theorem contributions_concat (cfg : Config) (codes : List KeyCode) (code : KeyCode) :
    contributions cfg (codes ++ [code]) = contribute cfg (contributions cfg codes) code := by
  rw [contributions, contributions, List.foldl_concat]

theorem contributions_regular (cfg : Config) (codes : List KeyCode) :
    (contributions cfg codes).regular =
      (codes.filter fun c => classify cfg c = .combo ∨ classify cfg c = .plain).map fun c => c.extractLsb' 0 8 := by
  induction codes using List.reverseRecOn with
  | nil => rfl
  | append_singleton codes code ih =>
    rw [contributions_concat, contribute_regular, ih, List.filter_append, List.map_append, List.filter_singleton]
    split <;> simp_all

theorem contributions_modifier (cfg : Config) (codes : List KeyCode) {n : Nat} (hn : n < 8) :
    (contributions cfg codes).modifier.getLsbD n = true ↔
      ∃ c ∈ codes, (classify cfg c = .combo ∧ n < 4 ∧ c.getLsbD (8 + n) = true) ∨
        (classify cfg c = .modifier ∧ (c - cfg.kcLeftCtrl).toNat = n) := by
  induction codes using List.reverseRecOn with
  | nil => simp [contributions]
  | append_singleton codes code ih =>
    rw [contributions_concat, contribute_modifier cfg _ code hn, ih]
    simp only [List.mem_append, List.mem_singleton, or_and_right, exists_or, exists_eq_left]

theorem contributions_cons (cfg : Config) (codes : List KeyCode) :
    (contributions cfg codes).cons =
      (((codes.filter fun c => classify cfg c = .consumer).map (cxlate cfg)).filter fun u => u ≠ 0).getLastD 0 := by
  induction codes using List.reverseRecOn with
  | nil => rfl
  | append_singleton codes code ih =>
    rw [contributions_concat, contribute_cons, ih, List.filter_append, List.map_append, List.filter_append,
      List.filter_singleton]
    by_cases hclass : classify cfg code = .consumer <;> by_cases husage : cxlate cfg code = 0#16 <;>
      simp [hclass, husage]

/-! ### ASSEMBLE, whole -/

/-- The primary reports, by the number of regular codes (R203 to R205). -/
theorem primaryReports_eq_ite (useFullKey : Bool) (c : Contribution) : primaryReports useFullKey c =
    if c.regular.length ≤ 6 then
      (if useFullKey then [resetPulse] else []) ++ [.keyboard c.modifier (bootSlotsOf c.regular)]
    else [.fullKey c.modifier (bitmapOf c.regular)] := by
  split
  case isTrue h => exact primaryReports_of_le useFullKey h
  case isFalse h => exact primaryReports_of_lt useFullKey (Nat.lt_of_not_le h)

theorem exec_assemble_range {layer : BitVec 3} {s : State} (hl : ¬ layer.toNat < 7) (h : s.fatal = false) :
    exec (.assemble layer) s = .next (s.setStatus .range) := by
  rw [exec, execAssemble, asLayer_range hl, runChecked_error _ h]

/-! ### The consumer state machine and time (R207, R208) -/

theorem repeatDue_iff (crs : Crs) (t : Word) :
    repeatDue crs t = true ↔ 500 < (t - crs.pressStart).toNat ∧ 200 < (t - crs.lastRepeat).toNat := by
  rw [repeatDue, Bool.and_eq_true, decide_eq_true_iff, decide_eq_true_iff]
  rfl

/-- A repeat's two stored times moved by `d`. -/
def Crs.shift (d : Word) (crs : Crs) : Crs :=
  { crs with
    pressStart := crs.pressStart + d
    lastRepeat := crs.lastRepeat + d }

theorem repeatDue_shift (crs : Crs) (t d : Word) : repeatDue (crs.shift d) (t + d) = repeatDue crs t := by
  simp only [repeatDue, Crs.shift, add_sub_add_right_eq_sub]

/-- The state machine reads differences of times alone. -/
theorem consumerStep_shift (crs : Crs) (u : Usage) (t d : Word) :
    consumerStep (crs.shift d) u (t + d) = ((consumerStep crs u t).1, (consumerStep crs u t).2.shift d) := by
  have hpress : newConsumerPress (crs.shift d) u = newConsumerPress crs u := rfl
  have hactive : (crs.shift d).active = crs.active := rfl
  unfold consumerStep
  rw [hpress, hactive, repeatDue_shift]
  split_ifs <;> rfl

/-- The state with NOW and the stored times moved by `d`. -/
def State.shiftTime (d : Word) (s : State) : State :=
  { s with
    inp := { s.inp with now := s.inp.now + d }
    crs := s.crs.shift d }

theorem assembleStep_shiftTime (mask : KeyMask) (l : Fin totalLayers) (d : Word) (s : State) :
    assembleStep mask l (s.shiftTime d) = (assembleStep mask l s).shiftTime d := by
  simp only [assembleStep, State.shiftTime, State.pressedCodes, State.keymap, consumerStep_shift]

theorem exec_assemble_shiftTime (layer : BitVec 3) (d : Word) (s : State) :
    ∃ t, exec (.assemble layer) s = .next t ∧ exec (.assemble layer) (s.shiftTime d) = .next (t.shiftTime d) := by
  cases hfatal : s.fatal with
  | true => exact ⟨_, exec_fatal _ hfatal, exec_fatal _ hfatal⟩
  | false =>
    have hfatal' : (s.shiftTime d).fatal = false := hfatal
    by_cases hl : layer.toNat < 7
    · refine ⟨_, exec_assemble hl hfatal, ?_⟩
      have hmask : (s.shiftTime d).inp.din0 = s.inp.din0 := rfl
      rw [exec_assemble hl hfatal', hmask, assembleStep_shiftTime]
      rfl
    · exact ⟨_, exec_assemble_range hl hfatal, exec_assemble_range hl hfatal'⟩

end Sys2Proof.Machine

namespace Sys2Proof.Proofs

open Sys2Proof.Machine Sys2Proof.Claims

/-- Settles O24, field by field, by induction on the list of codes. -/
theorem contributionsByClass : Obligations.ContributionsByClass := fun cfg codes =>
  ⟨contributions_regular cfg codes, fun _ => contributions_modifier cfg codes, contributions_cons cfg codes⟩

/-- Settles O23: the assembler's body, its primary reports by their number of codes, and the two rejections. -/
theorem assembleBuildsTheBatch : Obligations.AssembleBuildsTheBatch := by
  refine ⟨fun l s hl h => ?_, fun s h => exec_assemble_range (by decide) h, fun l => fatalRejects (.assemble l), ?_⟩
  · simp only [← primaryReports_eq_ite]
    exact exec_assemble hl h
  · exact commandWord_of_reread (f := .fl) (fun _ => rfl) (fun _ => rfl) fun _ => rfl

/-- Settles O26: above six codes the primary report is the full-key one, and a bit of its bitmap is a code of the
list. -/
theorem fullKeyBitmapHoldsTheCodes : Obligations.FullKeyBitmapHoldsTheCodes := by
  intro l s hl c hfatal hc hlt
  obtain ⟨t, consumer, hexec, hmode, hconsumer, hbatch⟩ := exec_assemble_batch hl hfatal hc
  rw [fullKeyFlag_of_lt hlt] at hmode
  rw [primaryReports_of_lt _ hlt] at hbatch
  exact ⟨t, _, consumer, hexec, hmode, hconsumer, hbatch, fun j => bitmapBit_bitmapOf c.regular⟩

/-- Settles O28: both forms of the primary report are built on the modifier byte of the contributions. -/
theorem primaryReportCarriesTheModifier : Obligations.PrimaryReportCarriesTheModifier := by
  intro l s hl hfatal
  obtain ⟨t, consumer, hexec, -, hconsumer, hbatch⟩ := exec_assemble_batch hl hfatal rfl
  rw [primaryReports_eq_ite] at hbatch
  split at hbatch
  · refine ⟨t, _, _, consumer, hexec, by rw [hbatch, List.append_assoc]; rfl, ?_, hconsumer, .inl ⟨_, rfl⟩⟩
    cases s.useFullKey with
    | true => exact .inr rfl
    | false => exact .inl rfl
  · exact ⟨t, [], _, consumer, hexec, hbatch, .inl rfl, hconsumer, .inr ⟨_, rfl⟩⟩

/-- Settles O29: each clause excludes all but one of the state machine's cases. -/
theorem consumerStateMachineCases : Obligations.ConsumerStateMachineCases := by
  intro crs u t
  simp only [← repeatDue_iff]
  refine ⟨fun hu hnew => ?_, fun hu hactive hkey => ?_, fun hu hactive => ?_, fun hu hidle => ?_⟩
  · rw [consumerStep, if_pos ((newConsumerPress_iff crs u).2 ⟨hu, hnew⟩)]
  · have hsame : ¬ newConsumerPress crs u = true := by simp [newConsumerPress_iff, hactive, hkey]
    refine ⟨fun hdue => ?_, fun hwait => ?_⟩
    · rw [consumerStep, if_neg hsame, if_pos hu, if_pos hdue]
    · rw [consumerStep, if_neg hsame, if_pos hu, if_neg hwait]
  · have hnone : ¬ newConsumerPress crs u = true := by simp [newConsumerPress_iff, hu]
    rw [consumerStep, if_neg hnone, if_neg (not_not.2 hu), if_pos hactive]
  · have hnone : ¬ newConsumerPress crs u = true := by simp [newConsumerPress_iff, hu]
    rw [consumerStep, if_neg hnone, if_neg (not_not.2 hu), if_neg (Bool.eq_false_iff.1 hidle)]

/-- Settles O30: ASSEMBLE commutes with moving NOW and the stored times. -/
theorem repeatIsUnmovedByShiftingTime : Obligations.RepeatIsUnmovedByShiftingTime := by
  intro l s d
  obtain ⟨t, hexec, hexec'⟩ := exec_assemble_shiftTime l d s
  exact ⟨t, _, hexec, hexec', rfl, rfl, rfl, rfl⟩

end Sys2Proof.Proofs
end

section
/-! PROOFS. The statements of 44_dispatch.md and 10_state.md on DISPATCH, the link, the switch, the layer and the
registers, and that the payload of a report determines it. -/

namespace Sys2Proof.Machine

open Sys2Proof.Claims

/-! ### The wire format (R127 to R129) -/

/-- The kinds of report differ in the length of their payload. -/
theorem wire_length (cfg : Config) (r : HidReport) : (wire cfg r).2.length =
    match r with
    | .keyboard _ _ => 7
    | .fullKey _ _ => 16
    | .consumer _ => 2 := by
  cases r <;> simp [wire]

/-- A usage is its two bytes. -/
theorem usage_eq_of_bytes {u v : Usage} (hlow : u.extractLsb' 0 8 = v.extractLsb' 0 8)
    (hhigh : u.extractLsb' 8 8 = v.extractLsb' 8 8) : u = v := by
  have hlow' := congrArg BitVec.toNat hlow
  have hhigh' := congrArg BitVec.toNat hhigh
  simp only [BitVec.extractLsb'_toNat, Nat.shiftRight_eq_div_pow] at hlow' hhigh'
  exact BitVec.eq_of_toNat_eq (by omega)

theorem wire_payload_injective {cfg : Config} {r r' : HidReport} (h : (wire cfg r).2 = (wire cfg r').2) : r = r' := by
  have hlength := congrArg List.length h
  rw [wire_length, wire_length] at hlength
  cases r <;> cases r' <;> simp only [wire, List.cons.injEq, Vector.toList_inj] at h hlength
  case keyboard.keyboard => rw [h.1, h.2]
  case fullKey.fullKey => rw [h.1, h.2]
  case consumer.consumer => rw [usage_eq_of_bytes h.1 h.2.1]
  all_goals exact absurd hlength (by decide)

/-! ### The commands outside the fatal state -/

/-- RESUME (R232). -/
theorem exec_resume {s : State} (h : s.fatal = false) :
    exec .resume s = .next (State.setStatus .ok { s with link := ⟨false, s.link.rwa⟩ }) := by
  rw [exec, execResume, runPlain_ok _ h]

/-- SETEN (R238). -/
theorem exec_seten {s : State} (b : Bool) (h : s.fatal = false) :
    exec (.seten b) s = .next (State.setStatus .ok { s with
      reportEnabled := b
      queue := if b then s.queue else [] }) := by
  rw [exec, execSeten, runPlain_ok _ h]
  cases b <;> rfl

/-- TXDONE (R243). -/
theorem exec_txdone {s : State} (h : s.fatal = false) :
    exec .txdone s = .next (State.setStatus .ok { s with sender := .idle }) := by
  rw [exec, execTxdone, runPlain_ok _ h]

/-- SETLAYER with a layer in range (R246). -/
theorem exec_setlayer {layer : BitVec 3} {s : State} (hl : layer.toNat < 7) (h : s.fatal = false) :
    exec (.setlayer layer) s = .next (State.setStatus .ok { s with layer := ⟨layer.toNat, hl⟩ }) := by
  rw [exec, execSetlayer, asLayer_ok hl, runChecked_ok _ _ h]

theorem exec_setlayer_range {layer : BitVec 3} {s : State} (hl : ¬ layer.toNat < 7) (h : s.fatal = false) :
    exec (.setlayer layer) s = .next (s.setStatus .range) := by
  rw [exec, execSetlayer, asLayer_range hl, runChecked_error _ h]

/-! ### RDREG (R34 to R44, R247) -/

/-- The register a number names has that number. -/
theorem number_of_asCsr {reg : BitVec 8} {r : Csr} (h : asCsr reg = .ok r) : r.number.toNat = reg.toNat := by
  unfold asCsr at h
  split at h <;> cases h <;> symm <;> assumption

/-- Fields side by side, as a number. -/
theorem toNat_append_eq_add {m n : Nat} (x : BitVec m) (y : BitVec n) : (x ++ y).toNat = x.toNat * 2 ^ n + y.toNat := by
  rw [BitVec.toNat_append, ← Nat.shiftLeft_add_eq_or_of_lt y.isLt, Nat.shiftLeft_eq]

theorem busy_toNat (sender : Sender) : sender.busy.toNat = if sender = .idle then 0 else 1 := by
  cases sender <;> rfl

/-- A register's value as the sum of its fields, the queue and the batch within their bounds. -/
theorem csr_toNat {s : State} (hqueue : s.queue.length ≤ 10) (hbatch : s.batch.length ≤ 3) (r : Csr) :
    (s.csr r).toNat = csrNumber s r.number.toNat := by
  have hlayer : s.layer.val < 7 := s.layer.isLt
  cases r <;>
    simp only [State.csr, toNat_append_eq_add, BitVec.toNat_ofNat, BitVec.toNat_ofBool, busy_toNat] <;>
    simp [csrNumber, Csr.number] <;> omega

theorem csr_eq_csrNumber {s : State} (hqueue : s.queue.length ≤ 10) (hbatch : s.batch.length ≤ 3) (r : Csr) :
    s.csr r = BitVec.ofNat 32 (csrNumber s r.number.toNat) := by
  rw [← csr_toNat hqueue hbatch, BitVec.ofNat_toNat, BitVec.setWidth_eq]

/-- RDREG of an assigned number. -/
theorem exec_rdreg {reg : BitVec 8} {s : State} (hreg : reg.toNat ≤ 10) (hfatal : s.fatal = false)
    (hqueue : s.queue.length ≤ 10) (hbatch : s.batch.length ≤ 3) :
    exec (.rdreg reg) s = .next ((s.setDout (BitVec.ofNat 32 (csrNumber s reg.toNat))).setStatus .ok) := by
  obtain ⟨r, hr⟩ := asCsr_ok hreg
  rw [exec, execRdreg, hr, runChecked_ok _ _ hfatal, csr_eq_csrNumber hqueue hbatch, number_of_asCsr hr]

theorem exec_rdreg_range {reg : BitVec 8} {s : State} (hreg : 10 < reg.toNat) (hfatal : s.fatal = false) :
    exec (.rdreg reg) s = .next (s.setStatus .range) := by
  rw [exec, execRdreg, asCsr_range hreg, runChecked_error _ hfatal]

/-! ### The queue while the link is suspended -/

theorem dispatchStep_queue_of_suspended {s : State} (h : s.link.suspended = true) :
    (dispatchStep s).queue = s.queue ∨ (dispatchStep s).queue = [] := by
  rw [dispatchStep_queue, h]
  cases s.reportEnabled with
  | true => exact .inl rfl
  | false => exact .inr rfl

/-- No command's effect pushes a report while the link is suspended (R236). -/
theorem Body.queue_of_suspended {i : Instr} {s u : State} (h : Body s i u) (hlink : s.link.suspended = true) :
    u.queue = s.queue ∨ u.queue = [] := by
  cases h with
  | dispatch => exact dispatchStep_queue_of_suspended hlink
  | scan => exact dispatchStep_queue_of_suspended (s := scanAssemble s) hlink
  | seten b =>
    cases b with
    | true => exact .inl rfl
    | false => exact .inr rfl
  | _ => exact .inl rfl

end Sys2Proof.Machine

namespace Sys2Proof.Proofs

open Sys2Proof.Machine

/-- Settles O32: the payload's length tells the kind, and its bytes are the report's fields. -/
theorem wirePayloadDeterminesTheReport : Obligations.WirePayloadDeterminesTheReport :=
  fun _ _ _ => wire_payload_injective

/-- Settles O33: the pushes onto a queue within its bound are the first ten of queue and batch. -/
theorem dispatchQueuesAndDropsSilently : Obligations.DispatchQueuesAndDropsSilently := by
  refine ⟨fun s hfatal henabled hactive hlength => ?_, fatalRejects .dispatch,
    commandWord_of_reread (f := .fn) (fun _ => rfl) (fun _ => rfl) fun _ => rfl⟩
  rw [exec_dispatch hfatal, dispatchStep_eq, wakes_of_active hactive, pushAll_eq_take s.batch hlength, henabled, hactive]
  simp [State.setDout, State.setStatus, Status.code, boolWord]

/-- Settles O36: while suspended DISPATCH's body is the wakeup request, or nothing, and the end of the cycle. -/
theorem dispatchWhileSuspended : Obligations.DispatchWhileSuspended := by
  intro s hfatal henabled hsuspended
  refine ⟨fun hpress => ?_, fun hnone => ?_⟩
  · have hwakes : s.wakes = true := by simp [State.wakes, henabled, hsuspended, hpress]
    rw [exec_dispatch hfatal, dispatchStep_eq, hwakes, henabled, hsuspended]
    rfl
  · have hwakes : s.wakes = false := by simpa [State.wakes, henabled, hsuspended] using hnone
    rw [exec_dispatch hfatal, dispatchStep_eq, hwakes, henabled, hsuspended]
    simp [State.setDout, State.setStatus, Status.code, boolWord]

/-- Settles O37: the switch is tested before the link. -/
theorem dispatchWhileDisabledDrains : Obligations.DispatchWhileDisabledDrains := by
  intro s hfatal hdisabled
  have hwakes : s.wakes = false := by simp [State.wakes, hdisabled]
  rw [exec_dispatch hfatal, dispatchStep_eq, hwakes, hdisabled]
  simp [State.setDout, State.setStatus, Status.code, boolWord]

/-- Settles O39: RESUME's effect, and the two rejections of a command of format FN. -/
theorem resumeActivatesTheLink : Obligations.ResumeActivatesTheLink :=
  ⟨fun _ => exec_resume, fatalRejects .resume,
    commandWord_of_reread (f := .fn) (fun _ => rfl) (fun _ => rfl) fun _ => rfl⟩

/-- Settles O40: SETEN's effect for both values of B, and the two rejections of a command of format FB. -/
theorem setenWritesTheSwitch : Obligations.SetenWritesTheSwitch :=
  ⟨fun b _ => exec_seten b, fun b => fatalRejects (.seten b),
    commandWord_of_reread (f := .fb) (fun _ => rfl) (fun _ => rfl) fun _ => rfl⟩

/-- Settles O41: TXDONE's effect, whatever the Sender's state, and the two rejections of a command of format FN. -/
theorem txdoneEndsTheWait : Obligations.TxdoneEndsTheWait :=
  ⟨fun _ => exec_txdone, fatalRejects .txdone,
    commandWord_of_reread (f := .fn) (fun _ => rfl) (fun _ => rfl) fun _ => rfl⟩

/-- Settles O42: SETLAYER's operand check, then the write. -/
theorem setlayerSelectsTheLayer : Obligations.SetlayerSelectsTheLayer :=
  ⟨fun _ _ hl h => exec_setlayer hl h, fun _ h => exec_setlayer_range (by decide) h,
    fun l => fatalRejects (.setlayer l),
    commandWord_of_reread (f := .fl) (fun _ => rfl) (fun _ => rfl) fun _ => rfl⟩

/-- Settles O43: the number names a register, whose fields do not overlap. -/
theorem rdregReadsTheRegister : Obligations.RdregReadsTheRegister :=
  ⟨fun _ _ hreg hfatal hqueue hbatch => exec_rdreg hreg hfatal hqueue hbatch,
    fun _ _ hreg hfatal => exec_rdreg_range hreg hfatal, fun n => fatalRejects (.rdreg n),
    commandWord_of_reread (f := .fr) (fun _ => rfl) (fun _ => rfl) fun _ => rfl⟩

/-- Settles O44: a rejected command leaves the queue, and no effect pushes while the link is suspended. -/
theorem noReportEntersWhileSuspended : Obligations.NoReportEntersWhileSuspended := by
  intro i s t hsuspended h
  obtain ⟨st, -, -, rfl⟩ | ⟨-, u, hb, rfl⟩ := exec_next h
  · exact .inl rfl
  · exact hb.queue_of_suspended hsuspended

end Sys2Proof.Proofs
end

section
/-! PROOFS. The statements of 45_scan.md: the whole SCAN, and SCAN as one split cycle. -/

namespace Sys2Proof.Machine

open Sys2Proof.Claims

/-- SCAN's DOUT as the sum of its two bits (R275). -/
theorem scanDout_eq_ofNat (press wake : Bool) : scanDout press wake = BitVec.ofNat 32 (2 * press.toNat + wake.toNat) := by
  cases press <;> cases wake <;> rfl

/-- SCAN's DOUT holds DISPATCH's in bit 0. -/
theorem scanDout_eq_add (press wake : Bool) :
    scanDout press wake = BitVec.ofNat 32 (2 * press.toNat) + boolWord wake := by
  cases press <;> cases wake <;> rfl

/-- A sample written to a data port is read back. -/
theorem samplePort_setWidth (x : Sample) : samplePort (x.setWidth 32) = x := by
  apply BitVec.eq_of_getLsbD_eq
  intro i hi
  have hlt : i < 32 := by omega
  simp [samplePort, hi, hlt]

/-- A mask written to a data port is read back. -/
theorem maskPort_setWidth (mask : KeyMask) : maskPort (mask.setWidth 32) = mask := by
  apply BitVec.eq_of_getLsbD_eq
  intro i hi
  have hlt : i < 32 := by omega
  simp [maskPort, hi, hlt]

/-- ASSEMBLE on the active layer, named by the layer register's number (R37, R210). -/
theorem exec_assemble_activeLayer {s : State} (l : Fin totalLayers) (h : s.fatal = false) :
    exec (.assemble (BitVec.ofNat 3 l.val)) s = .next
      (((assembleStep (maskPort s.inp.din0) l s).setDout (batchLength (assembleStep (maskPort s.inp.din0) l s))).setStatus
        .ok) := by
  have hl : l.val < 7 := l.isLt
  have hval : (BitVec.ofNat 3 l.val).toNat = l.val := Nat.mod_eq_of_lt (by omega)
  have hlt : (BitVec.ofNat 3 l.val).toNat < 7 := hval.trans_lt hl
  have hlayer : (⟨(BitVec.ofNat 3 l.val).toNat, hlt⟩ : Fin totalLayers) = l := Fin.ext hval
  rw [exec_assemble hlt h, hlayer]

/-! ### The phases on a state whose ports and records were replaced -/

theorem diffStep_withSample (s : State) (curr : Sample) (p : Inputs) (tr : List Record) :
    diffStep curr (s.withSample s.prev p tr) =
      (diffStep curr s).withSample curr p (tr ++ diffRecords s.cfg s.prev curr) := rfl

theorem assembleStep_withSample (s : State) (mask : KeyMask) (l : Fin totalLayers) (x : Sample) {p : Inputs}
    (tr : List Record) (hnow : p.now = s.inp.now) :
    assembleStep mask l (s.withSample x p tr) = (assembleStep mask l s).withSample x p tr := by
  simp only [assembleStep, State.withSample, State.pressedCodes, State.keymap, hnow]

/-- ASSEMBLE's body leaves DOUT and STATUS as they are. -/
theorem assembleStep_setDout_setStatus (s : State) (mask : KeyMask) (l : Fin totalLayers) (v : Word) (st : Status) :
    assembleStep mask l ((s.setDout v).setStatus st) = ((assembleStep mask l s).setDout v).setStatus st := rfl

/-- SCAN reaches dispatch as the split cycle does, with its capture records before the others. -/
theorem scanAssemble_eq_withSample (s : State) (curr : Sample) (hcurr : curr = s.inp.raw0 ||| s.inp.raw1) :
    scanAssemble s = (assembleStep (keyBits s.cfg curr) s.layer (diffStep curr s)).withSample curr s.inp
      (s.trace ++ [.capture (clockedBits s.inp.raw0), .capture (clockedBits s.inp.raw1)] ++
        diffRecords s.cfg s.prev curr) := by
  rw [scanAssemble, scanSample, debounce_eq_or, ← hcurr]
  rfl

/-- DISPATCH's body leaves DOUT and STATUS as they are. -/
theorem dispatchStep_setDout_setStatus (s : State) (v : Word) (st : Status) :
    dispatchStep ((s.setDout v).setStatus st) = ((dispatchStep s).setDout v).setStatus st := by
  simp only [dispatchStep_eq]
  rfl

/-- Of two writes of DOUT and STATUS the last one counts. -/
theorem setDout_setStatus_twice (s : State) (v v' : Word) (st st' : Status) :
    (((s.setDout v).setStatus st).setDout v').setStatus st' = (s.setDout v').setStatus st' := rfl

/-! ### The commands of a split cycle (R276, R350) -/

/-- DIFF on a sample given at DIN0. -/
theorem exec_diff_sample {s : State} (curr : Sample) (h : s.fatal = false) :
    ∃ v, exec .diff { s with inp := { s.inp with din0 := curr.setWidth 32 } } = .next
      ((((diffStep curr s).withSample curr { s.inp with din0 := curr.setWidth 32 }
        (s.trace ++ diffRecords s.cfg s.prev curr)).setDout v).setStatus .ok) := by
  refine ⟨(changedKeys s.cfg s.prev curr).setWidth 32, ?_⟩
  rw [exec_diff (by exact h)]
  dsimp only
  rw [samplePort_setWidth]
  rfl

/-- ASSEMBLE on the active layer with a mask given at DIN0, from a state whose ports, records, DOUT and STATUS were
replaced. -/
theorem exec_assemble_mask {s : State} (mask : KeyMask) (x : Sample) {p : Inputs} (tr : List Record) (v : Word)
    (hnow : p.now = s.inp.now) (h : s.fatal = false) :
    ∃ v', exec (.assemble (BitVec.ofNat 3 s.layer.val))
        { ((s.withSample x p tr).setDout v).setStatus .ok with inp := { p with din0 := mask.setWidth 32 } } = .next
      ((((assembleStep mask s.layer s).withSample x { p with din0 := mask.setWidth 32 } tr).setDout v').setStatus
        .ok) := by
  have hstate : { ((s.withSample x p tr).setDout v).setStatus .ok with inp := { p with din0 := mask.setWidth 32 } } =
      ((s.withSample x { p with din0 := mask.setWidth 32 } tr).setDout v).setStatus .ok := rfl
  have hmask : maskPort (((s.withSample x { p with din0 := mask.setWidth 32 } tr).setDout v).setStatus .ok).inp.din0 =
      mask := maskPort_setWidth mask
  rw [hstate, exec_assemble_activeLayer _ (by exact h), hmask, assembleStep_setDout_setStatus,
    assembleStep_withSample s mask _ x tr (by exact hnow), setDout_setStatus_twice]
  exact ⟨_, rfl⟩

/-- DISPATCH from a state whose sample, ports, records, DOUT and STATUS were replaced. -/
theorem exec_dispatch_withSample {s : State} (x : Sample) {p : Inputs} (tr : List Record) (v : Word)
    (hanswer : p.wakeOk = s.inp.wakeOk) (h : s.fatal = false) :
    exec .dispatch (((s.withSample x p tr).setDout v).setStatus .ok) = .next
      ((((dispatchStep s).withSample x p (tr ++ if s.wakes then wakeRecords s.inp.wakeOk else [])).setDout
        (boolWord s.wakes)).setStatus .ok) := by
  rw [exec_dispatch (by exact h), dispatchStep_setDout_setStatus, dispatchStep_withSample s x tr hanswer,
    setDout_setStatus_twice]
  rfl

end Sys2Proof.Machine

namespace Sys2Proof.Proofs

open Sys2Proof.Machine

/-- Settles O45: SCAN's phases are the bodies of the commands, and its DOUT is two bits. -/
theorem scanRunsTheFivePhases : Obligations.ScanRunsTheFivePhases := by
  refine ⟨fun s h => ?_, fatalRejects .scan, commandWord_of_reread (f := .fn) (fun _ => rfl) (fun _ => rfl) fun _ => rfl⟩
  rw [exec_scan h, scanDout_eq_ofNat]
  rfl

/-- Settles O46: each command of the split cycle runs its phase's body on a state that differs from SCAN's in the ports,
the records, DOUT and STATUS, none of which a later phase reads but for the time and the wakeup answer. -/
theorem scanIsTheSplitCycle : Obligations.ScanIsTheSplitCycle := by
  intro s h curr
  obtain ⟨v, hdiff⟩ := exec_diff_sample curr h
  obtain ⟨v', hassemble⟩ := exec_assemble_mask (s := diffStep curr s) (p := { s.inp with din0 := curr.setWidth 32 })
    (keyBits s.cfg curr) curr (s.trace ++ diffRecords s.cfg s.prev curr) v rfl h
  have hdispatch := exec_dispatch_withSample (s := assembleStep (keyBits s.cfg curr) s.layer (diffStep curr s))
    (p := { s.inp with din0 := (keyBits s.cfg curr).setWidth 32 }) curr (s.trace ++ diffRecords s.cfg s.prev curr) v'
    rfl h
  refine ⟨_, _, _, _, _, hdiff, hassemble, hdispatch, rfl, List.append_assoc _ _ _, ?_⟩
  rw [exec_scan h, scanAssemble_eq_withSample s curr rfl, scanDout_eq_add, ← List.append_assoc,
    dispatchStep_withSample (p := s.inp) (assembleStep (keyBits s.cfg curr) s.layer (diffStep curr s)) _ _ rfl]
  rfl

end Sys2Proof.Proofs
end

section
/-! PROOFS. The statements on the Sender's turns, the queue's entries, the wakeup requests and the owners of the state:
10_state.md, 20_memory.md, 44_dispatch.md and 45_scan.md section 2. -/

namespace Sys2Proof.Machine

open Sys2Proof.Claims

/-! ### The records of one port, in a list of records -/

theorem wakes_append (a b : List Record) : Claims.wakes (a ++ b) = Claims.wakes a + Claims.wakes b := List.countP_append

theorem logs_append (a b : List Record) : logs (a ++ b) = logs a ++ logs b := List.filterMap_append

theorem evtLed_append (a b : List Record) : evtLed (a ++ b) = evtLed a ++ evtLed b := List.filter_append a b

@[simp] theorem wakes_diffRecords (cfg : Config) (prev curr : Sample) :
    Claims.wakes (diffRecords cfg prev curr) = 0 := by
  refine List.countP_eq_zero.2 fun r hr => ?_
  obtain ⟨_, _, rfl⟩ | ⟨_, _, _, rfl⟩ := mem_diffRecords hr <;> exact Bool.false_ne_true

@[simp] theorem logs_diffRecords (cfg : Config) (prev curr : Sample) : logs (diffRecords cfg prev curr) = [] := by
  refine List.filterMap_eq_nil_iff.2 fun r hr => ?_
  obtain ⟨_, _, rfl⟩ | ⟨_, _, _, rfl⟩ := mem_diffRecords hr <;> rfl

@[simp] theorem logs_wakeRecords (ok : Bool) : logs (wakeRecords ok) = if ok then [] else [0x02] := by
  cases ok <;> rfl

/-! ### TIMEOUT and the blocked turns (R240, R244) -/

theorem timedOut_iff (since now : Word) : timedOut since now = true ↔ 100 ≤ (now - since).toNat :=
  decide_eq_true_iff

theorem senderStep_timeout {s : State} {since : Word} (hfatal : s.fatal = false) (hwait : s.sender = .wait since)
    (hlate : 100 ≤ (s.inp.now - since).toNat) : senderStep s = senderTimeout s := by
  simp [senderStep, hfatal, hwait, (timedOut_iff _ _).2 hlate]

theorem senderStep_waiting {s : State} {since : Word} (hwait : s.sender = .wait since)
    (hearly : (s.inp.now - since).toNat < 100) : senderStep s = s := by
  have hnot : timedOut since s.inp.now = false := Bool.eq_false_iff.2 fun h =>
    Nat.not_lt.2 ((timedOut_iff _ _).1 h) hearly
  simp [senderStep, hwait, hnot]

theorem senderStep_empty {s : State} (hidle : s.sender = .idle) (hempty : s.queue = []) : senderStep s = s := by
  simp [senderStep, hidle, hempty]

/-! ### How entries leave the queue -/

/-- DISPATCH's body keeps the entries and may append some of the batch, or drains while disabled (R81, R237). -/
theorem dispatchStep_queue_cases (s : State) :
    (∃ more, (dispatchStep s).queue = s.queue ++ more ∧ more.Sublist s.batch) ∨
      ((dispatchStep s).queue = [] ∧ s.reportEnabled = false) := by
  rw [dispatchStep_queue]
  cases s.reportEnabled with
  | false => exact .inr ⟨rfl, rfl⟩
  | true =>
    cases s.link.suspended with
    | true => exact .inl ⟨[], (List.append_nil _).symm, List.nil_sublist _⟩
    | false => exact .inl (pushAll_append s.queue s.batch)

/-- What a command's effect does to the queue: it keeps the entries, or drains them in one of three ways. -/
theorem Body.queue_cases {w : Word} {p : Inputs} {i : Instr} {s u : State} (hdecode : decode w = .ok i)
    (h : Body { s with inp := p } i u) :
    (∃ more, u.queue = s.queue ++ more ∧ more.Sublist (handedOver s (.command w p))) ∨
      (u.queue = [] ∧ (i = .seten false ∨ (i = .dispatch ∨ i = .scan) ∧ s.reportEnabled = false)) := by
  cases h with
  | dispatch =>
    have hbatch : handedOver s (.command w p) = s.batch := by simp [handedOver, hdecode]
    rw [hbatch]
    exact (dispatchStep_queue_cases { s with inp := p }).imp_right fun ⟨hq, hoff⟩ => ⟨hq, .inr ⟨.inl rfl, hoff⟩⟩
  | scan =>
    have hbatch : handedOver s (.command w p) = (scanAssemble { s with inp := p }).batch := by
      simp [handedOver, hdecode]
    rw [hbatch]
    exact (dispatchStep_queue_cases (scanAssemble { s with inp := p })).imp_right
      fun ⟨hq, hoff⟩ => ⟨hq, .inr ⟨.inr rfl, hoff⟩⟩
  | seten b =>
    cases b with
    | true => exact .inl ⟨[], (List.append_nil _).symm, List.nil_sublist _⟩
    | false => exact .inr ⟨rfl, .inl rfl⟩
  | _ => exact .inl ⟨[], (List.append_nil _).symm, List.nil_sublist _⟩

/-! ### Wakeup requests -/

/-- What `Obligations.WakeupsOnlyWhileSuspended` says of the records of one event from `s`. -/
def WakesLegally (s : State) (answer : Bool) (new : List Record) : Prop :=
  Claims.wakes new = 0 ∨
    (Claims.wakes new = 1 ∧ s.link.suspended = true ∧ logs new = if answer then [] else [0x02])

/-- Records before a request that hold neither WAKE nor LOG records change nothing of the clause. -/
theorem WakesLegally.append {s : State} {answer : Bool} {pre new : List Record} (hwakes : Claims.wakes pre = 0)
    (hlogs : logs pre = []) (h : WakesLegally s answer new) : WakesLegally s answer (pre ++ new) := by
  rw [WakesLegally, wakes_append, logs_append, hwakes, hlogs, Nat.zero_add, List.nil_append]
  exact h

/-- The records of DISPATCH's body. -/
theorem wakesLegally_dispatch (s : State) :
    WakesLegally s s.inp.wakeOk (if s.wakes then wakeRecords s.inp.wakeOk else []) := by
  split
  case isTrue h =>
    have hsuspended : s.link.suspended = true := by
      simp only [State.wakes, Bool.and_eq_true] at h
      exact h.1.1.2
    exact .inr ⟨wakes_wakeRecords _, hsuspended, logs_wakeRecords _⟩
  case isFalse => exact .inl rfl

/-- The records of a command's effect. -/
theorem Body.wakesLegally {i : Instr} {s u : State} (h : Body s i u) :
    ∃ new, u.trace = s.trace ++ new ∧ WakesLegally s s.inp.wakeOk new := by
  cases h with
  | diff => exact ⟨_, rfl, .inl (wakes_diffRecords _ _ _)⟩
  | dispatch => exact ⟨_, dispatchStep_trace s, wakesLegally_dispatch s⟩
  | scan =>
    have htrace : (dispatchStep (scanAssemble s)).trace = s.trace ++
        (([.capture (clockedBits s.inp.raw0), .capture (clockedBits s.inp.raw1)] ++
            diffRecords s.cfg s.prev (scanSample s)) ++
          if (scanAssemble s).wakes then wakeRecords s.inp.wakeOk else []) := by simp
    refine ⟨_, htrace, (wakesLegally_dispatch (scanAssemble s)).append ?_ ?_⟩
    · rw [wakes_append, wakes_diffRecords]
      rfl
    · rw [logs_append, logs_diffRecords]
      rfl
  | seten b => cases b <;> exact ⟨[], (List.append_nil _).symm, .inl rfl⟩
  | _ => exact ⟨[], (List.append_nil _).symm, .inl rfl⟩

/-- The records of a turn of the Sender. -/
theorem senderStep_wakesLegally (s : State) :
    ∃ new, (senderStep s).trace = s.trace ++ new ∧ WakesLegally s s.inp.wakeOk new := by
  obtain ⟨r, q, -, -, -, -, heq⟩ | ⟨-, -, -, hsuspended, heq⟩ | ⟨_, -, -, -, heq⟩ | heq := senderStep_cases s <;>
    rw [heq]
  case inl => exact ⟨[txRecord s.cfg r], rfl, .inl rfl⟩
  case inr.inl => exact ⟨wakeRecords s.inp.wakeOk, rfl, .inr ⟨wakes_wakeRecords _, hsuspended, logs_wakeRecords _⟩⟩
  case inr.inr.inl => exact ⟨[.log logTxTimeout], rfl, .inl rfl⟩
  case inr.inr.inr => exact ⟨[], (List.append_nil _).symm, .inl rfl⟩

end Sys2Proof.Machine

namespace Sys2Proof.Proofs

open Sys2Proof.Machine Sys2Proof.Claims

/-- Settles O50: in WAIT the comparison with 100 ms decides; idle, an empty queue blocks. -/
theorem senderTimesOutOrBlocks : Obligations.SenderTimesOutOrBlocks := by
  intro s t ok hfatal
  refine ⟨fun since hwait hlate => ?_, fun since hwait hearly => ?_, fun hidle hempty => ?_⟩
  · exact congrArg Host.Outcome.next (senderStep_timeout (s := { s with inp := s.inp.forSender t ok }) hfatal hwait hlate)
  · exact congrArg Host.Outcome.next (senderStep_waiting (s := { s with inp := s.inp.forSender t ok }) hwait hearly)
  · exact congrArg Host.Outcome.next (senderStep_empty (s := { s with inp := s.inp.forSender t ok }) hidle hempty)

/-- Settles O60: the one record of a POP is the wire form of the head. -/
theorem transmittedBytesOfEachKind : Obligations.TransmittedBytesOfEachKind := by
  refine ⟨fun s r q now ok hfatal hidle hqueue hactive => ?_, fun r => by cases r <;> rfl⟩
  have hpop := senderStep_pop_active { s with inp := s.inp.forSender now ok } hfatal hidle hqueue hactive
  refine ⟨_, _, _, congrArg Host.Outcome.next hpop, rfl, ?_⟩
  cases r with
  | keyboard m slots => exact ⟨rfl, rfl⟩
  | fullKey m bitmap => exact ⟨rfl, rfl⟩
  | consumer u =>
    refine ⟨rfl, rfl, fun i hi n hn => ?_⟩
    interval_cases i <;> simp [wire, hn]

/-- Settles O52, event by event: what each can do to the queue. -/
theorem entriesLeaveOnlyByPopOrDrain : Obligations.EntriesLeaveOnlyByPopOrDrain := by
  intro s t e h
  obtain ⟨w, p, i, rfl, hdecode, hran⟩ | ⟨w, p, _, _, rfl, -, rfl⟩ | ⟨now, ok, rfl, rfl⟩ | ⟨ok, rfl, rfl⟩ :=
    runEvent_next h
  · obtain ⟨st, -, -, rfl⟩ | ⟨-, u, hb, rfl⟩ := hran
    · exact .inl ⟨[], (List.append_nil _).symm, List.nil_sublist _⟩
    · obtain hkept | ⟨hempty, hcause⟩ := hb.queue_cases hdecode
      · exact .inl hkept
      · refine .inr (.inr ⟨hempty, ?_⟩)
        simpa [hdecode] using hcause
  · exact .inl ⟨[], (List.append_nil _).symm, List.nil_sublist _⟩
  · obtain ⟨r, q, -, -, hqueue, -, heq⟩ | ⟨-, hidle, -, hsuspended, heq⟩ | ⟨_, -, -, -, heq⟩ | heq :=
      senderStep_cases { s with inp := s.inp.forSender now ok } <;> rw [heq]
    · exact .inr (.inl ⟨r, now, ok, rfl, hqueue, rfl⟩)
    · exact .inr (.inr ⟨rfl, hidle, hsuspended⟩)
    · exact .inl ⟨[], (List.append_nil _).symm, List.nil_sublist _⟩
    · exact .inl ⟨[], (List.append_nil _).symm, List.nil_sublist _⟩
  · exact .inr (.inr ⟨rfl, trivial⟩)

/-- Settles O53, event by event: DISPATCH, SCAN and the Sender's POP alone request, and each only while suspended. -/
theorem wakeupsOnlyWhileSuspended : Obligations.WakeupsOnlyWhileSuspended := by
  intro s t e h
  obtain ⟨w, p, i, rfl, -, hran⟩ | ⟨w, p, _, _, rfl, -, rfl⟩ | ⟨now, ok, rfl, rfl⟩ | ⟨ok, rfl, rfl⟩ :=
    runEvent_next h
  · obtain ⟨st, -, -, rfl⟩ | ⟨-, u, hb, rfl⟩ := hran
    · exact ⟨[], (List.append_nil _).symm, .inl rfl⟩
    · exact hb.wakesLegally
  · exact ⟨[], (List.append_nil _).symm, .inl rfl⟩
  · exact senderStep_wakesLegally { s with inp := s.inp.forSender now ok }
  · exact ⟨[], (List.append_nil _).symm, .inl rfl⟩

end Sys2Proof.Proofs
end

section
/-! PROOFS. The statements of 45_scan.md section 2 and 10_state.md sections 1 and 5: a turn of the Sender commutes with
DIFF and ASSEMBLE, and the owners of each element of the state. -/

namespace Sys2Proof.Machine

open Sys2Proof.Claims

/-! ### The Sender's side of the state -/

/-- A state with the elements a turn of the Sender writes replaced (R239 to R244). -/
def State.withSender (tr : List Record) (q : List HidReport) (sender : Sender) (s : State) : State :=
  { s with
    trace := tr
    queue := q
    sender := sender }

/-- What a turn of the Sender reads. -/
def State.senderView (s : State) : Bool × Sender × List HidReport × Link × Inputs × Config :=
  (s.fatal, s.sender, s.queue, s.link, s.inp, s.cfg)

/-- A turn that changes nothing, as an update. -/
theorem withSender_self (s : State) : s = s.withSender (s.trace ++ []) s.queue s.sender := by
  rw [List.append_nil]
  rfl

/-- Two states that look alike to the Sender: its turn appends the same records to both, none of them on EVT or LED,
and leaves the same queue and the same wait. -/
theorem senderStep_eq_withSender (s : State) : ∃ rs q sender, evtLed rs = [] ∧
    ∀ s' : State, s'.senderView = s.senderView → senderStep s' = s'.withSender (s'.trace ++ rs) q sender := by
  simp only [State.senderView, Prod.mk.injEq]
  cases hfatal : s.fatal with
  | true =>
    refine ⟨[], s.queue, s.sender, rfl, fun s' ⟨hfatal', hsender, hqueue, _⟩ => ?_⟩
    rw [senderStep_of_fatal hfatal', ← hqueue, ← hsender]
    exact withSender_self s'
  | false =>
    cases hidle : s.sender with
    | idle =>
      cases hqueue : s.queue with
      | nil =>
        refine ⟨[], [], .idle, rfl, fun s' ⟨_, hidle', hqueue', _⟩ => ?_⟩
        rw [senderStep_empty hidle' hqueue', ← hqueue', ← hidle']
        exact withSender_self s'
      | cons r q =>
        cases hlink : s.link.suspended with
        | false =>
          refine ⟨[txRecord s.cfg r], q, .wait s.inp.now, rfl, fun s' ⟨hfatal', hidle', hqueue', hlink', hinp, hcfg⟩ => ?_⟩
          rw [senderStep_pop_active s' hfatal' hidle' hqueue' (hlink' ▸ hlink), hinp, hcfg]
          rfl
        | true =>
          refine ⟨wakeRecords s.inp.wakeOk, [], .idle, evtLed_wakeRecords _,
            fun s' ⟨hfatal', hidle', hqueue', hlink', hinp, _⟩ => ?_⟩
          rw [senderStep_pop_suspended s' hfatal' hidle' hqueue' (hlink' ▸ hlink), hinp, ← hidle']
          rfl
    | wait since =>
      obtain hearly | hlate := Nat.lt_or_ge (s.inp.now - since).toNat 100
      · refine ⟨[], s.queue, .wait since, rfl, fun s' ⟨_, hwait', hqueue', _, hinp, _⟩ => ?_⟩
        rw [senderStep_waiting hwait' (hinp ▸ hearly), ← hqueue', ← hwait']
        exact withSender_self s'
      · refine ⟨[.log logTxTimeout], s.queue, .idle, rfl, fun s' ⟨hfatal', hwait', hqueue', _, hinp, _⟩ => ?_⟩
        rw [senderStep_timeout hfatal' hwait' (hinp ▸ hlate), ← hqueue']
        rfl

/-- What commuting with the Sender asks of a command from `s` to `a`: it reads nothing the Sender writes, writes nothing
the Sender reads, and has its records on EVT and LED. -/
def PassesSender (i : Instr) (s a : State) : Prop :=
  ∃ new, txs new = [] ∧ Claims.wakes new = 0 ∧ logs new = [] ∧ a.trace = s.trace ++ new ∧
    a.senderView = s.senderView ∧
    ∀ tr q sender, exec i (s.withSender tr q sender) = .next (a.withSender (tr ++ new) q sender)

/-- A rejection passes the Sender, if it does not depend on what the Sender writes. -/
theorem passesSender_rejected {i : Instr} {s : State} {st : Status}
    (h : ∀ tr q sender, exec i (s.withSender tr q sender) = .next ((s.withSender tr q sender).setStatus st)) :
    PassesSender i s (s.setStatus st) :=
  ⟨[], rfl, rfl, rfl, (List.append_nil _).symm, rfl, fun tr q sender => by
    rw [h, List.append_nil]
    rfl⟩

theorem passesSender_diff {s : State} (hfatal : s.fatal = false) :
    PassesSender .diff s (((diffStep (samplePort s.inp.din0) s).setDout
      ((changedKeys s.cfg s.prev (samplePort s.inp.din0)).setWidth 32)).setStatus .ok) :=
  ⟨_, txs_diffRecords _ _ _, wakes_diffRecords _ _ _, logs_diffRecords _ _ _, rfl, rfl,
    fun _ _ _ => exec_diff (by exact hfatal)⟩

theorem passesSender_assemble {layer : BitVec 3} {s : State} (hl : layer.toNat < 7) (hfatal : s.fatal = false) :
    PassesSender (.assemble layer) s (((assembleStep (maskPort s.inp.din0) ⟨layer.toNat, hl⟩ s).setDout
      (batchLength (assembleStep (maskPort s.inp.din0) ⟨layer.toNat, hl⟩ s))).setStatus .ok) :=
  ⟨[], rfl, rfl, rfl, (List.append_nil _).symm, rfl, fun tr q sender => by
    rw [List.append_nil]
    exact exec_assemble hl (by exact hfatal)⟩

theorem passesSender_of_exec {i : Instr} {s a : State} (hi : i = .diff ∨ ∃ l, i = .assemble l)
    (h : exec i s = .next a) : PassesSender i s a := by
  cases hfatal : s.fatal with
  | true =>
    rw [exec_fatal i hfatal] at h
    injection h with h
    subst h
    exact passesSender_rejected fun _ _ _ => exec_fatal i (by exact hfatal)
  | false =>
    obtain rfl | ⟨layer, rfl⟩ := hi
    · rw [exec_diff hfatal] at h
      injection h with h
      subst h
      exact passesSender_diff hfatal
    · by_cases hl : layer.toNat < 7
      · rw [exec_assemble hl hfatal] at h
        injection h with h
        subst h
        exact passesSender_assemble hl hfatal
      · rw [exec_assemble_range hl hfatal] at h
        injection h with h
        subst h
        exact passesSender_rejected fun _ _ _ => exec_assemble_range hl (by exact hfatal)

/-! ### The owner of each element (R30) -/

theorem Body.pending_inp_eq {i : Instr} {s u : State} (h : Body s i u) : u.pending = s.pending ∧ u.inp = s.inp := by
  cases h with
  | seten b => cases b <;> exact ⟨rfl, rfl⟩
  | dispatch => simp
  | scan => simp
  | _ => exact ⟨rfl, rfl⟩

theorem Body.link_eq {i : Instr} {s u : State} (h : Body s i u) (hsuspend : ∀ b, i ≠ .suspend b)
    (hresume : i ≠ .resume) : u.link = s.link := by
  cases h with
  | suspend b => exact absurd rfl (hsuspend b)
  | resume => exact absurd rfl hresume
  | seten b => cases b <;> rfl
  | dispatch => simp
  | scan => simp
  | _ => rfl

theorem Body.reportEnabled_eq {i : Instr} {s u : State} (h : Body s i u) (hseten : ∀ b, i ≠ .seten b) :
    u.reportEnabled = s.reportEnabled := by
  cases h with
  | seten b => exact absurd rfl (hseten b)
  | dispatch => simp
  | scan => simp
  | _ => rfl

theorem Body.layer_eq {i : Instr} {s u : State} (h : Body s i u) (hsetlayer : ∀ l, i ≠ .setlayer l) :
    u.layer = s.layer := by
  cases h with
  | setlayer => exact absurd rfl (hsetlayer _)
  | seten b => cases b <;> rfl
  | dispatch => simp
  | scan => simp
  | _ => rfl

theorem Body.queue_eq {i : Instr} {s u : State} (h : Body s i u) (hdispatch : i ≠ .dispatch) (hscan : i ≠ .scan)
    (hseten : ∀ b, i ≠ .seten b) : u.queue = s.queue := by
  cases h with
  | dispatch => exact absurd rfl hdispatch
  | scan => exact absurd rfl hscan
  | seten b => exact absurd rfl (hseten b)
  | _ => rfl

theorem Body.batch_eq {i : Instr} {s u : State} (h : Body s i u) (hassemble : ∀ l, i ≠ .assemble l)
    (hdispatch : i ≠ .dispatch) (hscan : i ≠ .scan) : u.batch = s.batch := by
  cases h with
  | assemble => exact absurd rfl (hassemble _)
  | dispatch => exact absurd rfl hdispatch
  | scan => exact absurd rfl hscan
  | seten b => cases b <;> rfl
  | _ => rfl

theorem Body.cycPress_trace_eq {i : Instr} {s u : State} (h : Body s i u) (hdiff : i ≠ .diff) (hdispatch : i ≠ .dispatch)
    (hscan : i ≠ .scan) : u.cycPress = s.cycPress ∧ u.trace = s.trace := by
  cases h with
  | diff => exact absurd rfl hdiff
  | dispatch => exact absurd rfl hdispatch
  | scan => exact absurd rfl hscan
  | seten b => cases b <;> exact ⟨rfl, rfl⟩
  | _ => exact ⟨rfl, rfl⟩

theorem Body.sender_eq {i : Instr} {s u : State} (h : Body s i u) (htxdone : i ≠ .txdone) : u.sender = s.sender := by
  cases h with
  | txdone => exact absurd rfl htxdone
  | seten b => cases b <;> rfl
  | dispatch => simp
  | scan => simp
  | _ => rfl

/-- The commands that compute nothing leave DOUT (R50, D23). -/
theorem Body.dout_eq {i : Instr} {s u : State} (h : Body s i u)
    (hi : (∃ l k v, i = .kmwrite l k v) ∨ (∃ l, i = .setlayer l) ∨ (∃ b, i = .seten b) ∨ (∃ b, i = .suspend b) ∨
      i = .resume ∨ i = .txdone) : u.dout = s.dout := by
  obtain ⟨_, _, _, rfl⟩ | ⟨_, rfl⟩ | ⟨b, rfl⟩ | ⟨_, rfl⟩ | rfl | rfl := hi <;> cases h
  case seten => cases b <;> rfl
  all_goals rfl

end Sys2Proof.Machine

namespace Sys2Proof.Proofs

open Sys2Proof.Machine Sys2Proof.Claims

/-- Settles O56, element by element: the frame of each command's effect. -/
theorem onlyOwnersWriteTheRest : Obligations.OnlyOwnersWriteTheRest := by
  intro i s t h
  have hran : Ran i s t := exec_next h
  have hports : (t.pending, t.inp) = (s.pending, s.inp) :=
    hran.frame (fun u => (u.pending, u.inp)) (fun _ _ => rfl) fun _ hb => Prod.ext_iff.2 hb.pending_inp_eq
  refine ⟨⟨?_, (Prod.ext_iff.1 hports).1, (Prod.ext_iff.1 hports).2, hran.fatal_eq⟩, fun hsuspend hresume => ?_,
    fun hseten => ?_, fun hsetlayer => ?_, fun hkmwrite => ?_, fun hdispatch hscan hseten => ?_,
    fun hassemble hdispatch hscan => ?_, fun hdiff hdispatch hscan => ?_, fun htxdone => ?_, fun hsilent => ?_⟩
  · exact hran.frame State.cfg (fun _ _ => rfl) fun _ hb => hb.cfg_eq
  · exact hran.frame State.link (fun _ _ => rfl) fun _ hb => hb.link_eq hsuspend hresume
  · exact hran.frame State.reportEnabled (fun _ _ => rfl) fun _ hb => hb.reportEnabled_eq hseten
  · exact hran.frame State.layer (fun _ _ => rfl) fun _ hb => hb.layer_eq hsetlayer
  · exact hran.frame State.km (fun _ _ => rfl) fun _ hb => hb.km_eq hkmwrite
  · exact hran.frame State.queue (fun _ _ => rfl) fun _ hb => hb.queue_eq hdispatch hscan hseten
  · exact hran.frame State.batch (fun _ _ => rfl) fun _ hb => hb.batch_eq hassemble hdispatch hscan
  · exact Prod.ext_iff.1 (hran.frame (fun u => (u.cycPress, u.trace)) (fun _ _ => rfl) fun _ hb =>
      Prod.ext_iff.2 (hb.cycPress_trace_eq hdiff hdispatch hscan))
  · exact hran.frame State.sender (fun _ _ => rfl) fun _ hb => hb.sender_eq htxdone
  · exact hran.frame State.dout (fun _ _ => rfl) fun _ hb => hb.dout_eq hsilent

/-- Settles O54: the Sender's records and the command's change places, and they are on different ports. -/
theorem senderCommutesWithDiffAndAssemble : Obligations.SenderCommutesWithDiffAndAssemble := by
  intro i s a hi h
  obtain ⟨rs, q, sender, hrs, hturn⟩ := senderStep_eq_withSender s
  obtain ⟨new, htxs, hwakes, hlogs, htrace, hview, hexec⟩ := passesSender_of_exec hi h
  have hbefore := hexec (s.trace ++ rs) q sender
  rw [← hturn s rfl] at hbefore
  refine ⟨_, hbefore, ?_, ?_, ?_, ?_, ?_⟩ <;> rw [hturn a hview]
  · rfl
  all_goals simp only [State.withSender, htrace]
  · simp [evtLed_append, hrs]
  · simp [txs_append, htxs]
  · simp [wakes_append, hwakes]
  · simp [logs_append, hlogs]

end Sys2Proof.Proofs
end
